-- ==== Sys2Proof/Word.lean ====
section
/-! DEFINITION. The value types of the block: MIDI bytes and their fields, the 24-bit command word,
32-bit words, and binary32 values. Rules 00_scope.md R10, R15, R18; 30_encoding.md R130. -/

namespace Sys2Proof

/-- One byte of a MIDI message (20_memory.md R104). -/
abbrev Byte := BitVec 8

/-- A status or channel nibble (30_encoding.md R130). -/
abbrev Nibble := BitVec 4

/-- A 7-bit MIDI data value, `d1` or `d2` (30_encoding.md R130, R132). -/
abbrev Data7 := BitVec 7

/-- The 24-bit command word `W` (30_encoding.md R130). -/
abbrev CmdWord := BitVec 24

/-- An unsigned 32-bit register (the noise seed, 10_state.md R55) or a binary32 bit pattern. -/
abbrev Word32 := BitVec 32

/-- A binary32 value (00_scope.md R10). `num neg expo frac` is the finite value of sign `neg`, biased
exponent `expo` (0 for zeros and subnormals) and fraction `frac`. There is ONE not-a-number: the sign
and the payload of a NaN are any value and no rule reads them (00_scope.md R18; assumption 4). -/
inductive F32 where
  | nan
  | inf (neg : Bool)
  | num (neg : Bool) (expo : Fin 255) (frac : BitVec 23)
  deriving DecidableEq, Repr, Inhabited

end Sys2Proof
end

