-- ==== Sys2Proof/Config.lean ====
section
/-! DEFINITION. What an implementation fixes: the open parameters `F` and `FTZ` as uninterpreted
constants, and the fixed counts of 00_scope.md R7. -/

namespace Sys2Proof

/-! The transcendental functions `F` (00_scope.md R12, decision D3: OPEN). They have no body: the machine
assumes nothing of them but that each result depends only on its arguments (assumption 5). -/

/-- `F.sin` (00_scope.md R12). -/
opaque Config.sin : F32 → F32
/-- `F.cos` (00_scope.md R12). -/
opaque Config.cos : F32 → F32
/-- `F.tan` (00_scope.md R12). -/
opaque Config.tan : F32 → F32
/-- `F.exp` (00_scope.md R12). -/
opaque Config.exp : F32 → F32
/-- `F.pow` (00_scope.md R12). -/
opaque Config.pow : F32 → F32 → F32

/-- `FTZ`: whether subnormals are flushed to zero (00_scope.md R18, decision D4: OPEN). It has no body:
every statement holds for both settings (assumption 6). -/
opaque Config.ftz : Bool

/-- `LFO_MAX`, samples per LFO update (00_scope.md R7). -/
def Config.lfoMax : Int := 32

/-- `SUSTAIN`, the note sentinel (00_scope.md R7). -/
def Config.sustain : Int := -1

/-- How many doublings of 45_engine_midi.md R339 are tried before the loop is known never to end: a
positive binary32 value reaches +infinity after at most 277 doublings, and zeros, infinities and
negative values never leave the loop once in it (assumption 9). -/
def Config.doublingFuel : Nat := 300

end Sys2Proof
end

