-- ==== Sys2Proof/Syntax.lean ====
section
/-! DEFINITION. The commands of the block and its instructions: one constructor of `Instr` for every row of
spec/opcode_table.json, in the table's order. Rules 30_encoding.md R130-R142. -/

namespace Sys2Proof

/-- One of the two oscillators of a voice (10_state.md R31). -/
inductive OscId where
  | osc1
  | osc2
  deriving DecidableEq, Repr

/-- An output channel (20_memory.md R100). -/
inductive Channel where
  | left
  | right
  deriving DecidableEq, Repr

/-- A voice slot index, 0..7 (10_state.md R31; 20_memory.md R107). -/
abbrev VoiceIdx := Fin 8

/-- A command as the host issues it on the command port (20_memory.md R100 item 4; 30_encoding.md R140): one constructor
for each line form of the spec's command syntax (30_encoding.md R145). The length of a MIDI message is the length of its
byte list (30_encoding.md R141). -/
inductive Command where
  | alloc (sampleRate : F32) (blockSize : Int)
  | dealloc
  | reset
  | render (n : Nat)
  | setParam (id : Int) (value : F32)
  | midi (bytes : List Byte)
  deriving DecidableEq, Repr

/-- The pseudo-commands (30_encoding.md R146), each short for one `midi` line; `PseudoCommand.toCommand` expands them. -/
inductive PseudoCommand where
  /-- `noteon <n> <v>`, `v ≥ 1` (a check of WellFormed). -/
  | noteOn (n v : Data7)
  | noteOff (n : Data7)
  | pedalDown
  | pedalUp
  | panic
  /-- `bend <b14>`, 0..16383. -/
  | bend (b : BitVec 14)
  | bendCenter
  deriving DecidableEq, Repr

/-- The twelve MIDI rows of the decode table (30_encoding.md R133), in its order. -/
inductive MidiRow where
  | ignData
  | noteOff
  | noteOnV0
  | noteOn
  | ignPolyPressure
  | ccSustain
  | ccPanic
  | ccOther
  | ignProgram
  | ignChannelPressure
  | pitchBend
  | ignSystem
  deriving DecidableEq, Repr

/-- The instructions. The MIDI rows carry the channel nibble `c` (ignored, 30_encoding.md R132) and the data
fields that the row leaves free. The internal operations carry the operands that their rules name. -/
inductive Instr where
  -- MIDI rows (30_encoding.md R133)
  /-- Row 1: status bits `h[2:0]` (bit 7 of byte 0 is 0). -/
  | midiIgnData (h : BitVec 3) (c : Nibble) (d1 d2 : Data7)
  | midiNoteOff (c : Nibble) (d1 d2 : Data7)
  /-- Row 3: `d2 = 0`. -/
  | midiNoteOnV0 (c : Nibble) (d1 : Data7)
  /-- Row 4: `d2 ≠ 0` (a check of WellFormed). -/
  | midiNoteOn (c : Nibble) (d1 d2 : Data7)
  | midiIgnPolyPressure (c : Nibble) (d1 d2 : Data7)
  /-- Row 6: `d1 = 0x40`. -/
  | midiCcSustain (c : Nibble) (d2 : Data7)
  /-- Row 7: `d1 = 0x78 + k`. -/
  | midiCcPanic (c : Nibble) (k : BitVec 3) (d2 : Data7)
  /-- Row 8: any other `d1` (a check of WellFormed). -/
  | midiCcOther (c : Nibble) (d1 d2 : Data7)
  | midiIgnProgram (c : Nibble) (d1 d2 : Data7)
  | midiIgnChannelPressure (c : Nibble) (d1 d2 : Data7)
  | midiPitchBend (c : Nibble) (d1 d2 : Data7)
  | midiIgnSystem (c : Nibble) (d1 d2 : Data7)
  -- host calls (30_encoding.md R140)
  | hostAlloc (sampleRate : F32) (blockSize : Int)
  | hostDealloc
  | hostReset
  | hostRender (n : Nat)
  | hostSetParam (id : Int) (value : F32)
  | hostMidi (bytes : List Byte)
  -- internal operations (30_encoding.md R142)
  | oscReset (v : VoiceIdx) (o : OscId)
  | nextSample (v : VoiceIdx) (o : OscId)
  | oscRender (v : VoiceIdx) (o : OscId)
  /-- `voice[v].osc2.squareWave(voice[v].osc1, newPeriod)` (40_oscillator.md R209). -/
  | squareWave (v : VoiceIdx) (newPeriod : F32)
  | updateCoefficients (v : VoiceIdx) (cutoff q : F32)
  | filterRender (v : VoiceIdx) (x : F32)
  | filterReset (v : VoiceIdx)
  | attack (v : VoiceIdx)
  | nextValue (v : VoiceIdx)
  | release (v : VoiceIdx)
  | isActive (v : VoiceIdx)
  | isInAttack (v : VoiceIdx)
  | envReset (v : VoiceIdx)
  | lfoTick
  | noiseNext
  | voiceRender (v : VoiceIdx) (x : F32)
  | voiceUpdate (v : VoiceIdx)
  | voiceNoteOff (v : VoiceIdx)
  | voiceReset (v : VoiceIdx)
  | findFreeVoice
  | calcPeriod (v : VoiceIdx) (note : Nat)
  | refreshPeriods (v : VoiceIdx)
  | startVoice (v : VoiceIdx) (note velocity : Nat)
  | noteOn (note velocity : Nat)
  | noteOff (note : Int)
  | controlChange (controller value : Nat)
  | sustainPedalChange (value : Nat)
  | panic
  | setPitchBend (bendSigned : Int)
  | reclaim
  | safetyClamp (ch : Channel)
  | derive
  deriving DecidableEq, Repr

/-- The instruction that executes a command: the host-call row of the same name (30_encoding.md R140). -/
def Command.toInstr : Command → Instr
  | .alloc sr bs => .hostAlloc sr bs
  | .dealloc => .hostDealloc
  | .reset => .hostReset
  | .render n => .hostRender n
  | .setParam id x => .hostSetParam id x
  | .midi bytes => .hostMidi bytes

end Sys2Proof
end

