-- ==== Sys2Proof/WellFormed.lean ====
section
/-! DEFINITION. Which instructions are well formed: the conditions a decode row puts on its operands
(30_encoding.md R133) and the operand ranges the rules of the internal operations state. -/

namespace Sys2Proof

/-- A note number or a velocity of an internal operation, 0..127 (30_encoding.md R135). -/
def isData7 (n : Nat) : Bool := n < 128

/-- The controllers of row 8 of 30_encoding.md R133: neither 0x40 (row 6) nor at least 0x78 (row 7). -/
def isOtherController (d1 : Data7) : Bool := d1 != 0x40#7 && d1 < 0x78#7

/-- The check. A host call is well formed whatever its operands: an operand its rule does not accept is
refused by the command itself (60_exceptions.md R406). -/
def Instr.wellFormed : Instr → Bool
  | .midiIgnData _ _ _ _ => true
  | .midiNoteOff _ _ _ => true
  | .midiNoteOnV0 _ _ => true
  | .midiNoteOn _ _ d2 => d2 != 0#7
  | .midiIgnPolyPressure _ _ _ => true
  | .midiCcSustain _ _ => true
  | .midiCcPanic _ _ _ => true
  | .midiCcOther _ d1 _ => isOtherController d1
  | .midiIgnProgram _ _ _ => true
  | .midiIgnChannelPressure _ _ _ => true
  | .midiPitchBend _ _ _ => true
  | .midiIgnSystem _ _ _ => true
  | .hostAlloc _ _ => true
  | .hostDealloc => true
  | .hostReset => true
  | .hostRender _ => true
  | .hostSetParam _ _ => true
  | .hostMidi _ => true
  | .oscReset _ _ => true
  | .nextSample _ _ => true
  | .oscRender _ _ => true
  | .squareWave _ _ => true
  | .updateCoefficients _ _ _ => true
  | .filterRender _ _ => true
  | .filterReset _ => true
  | .attack _ => true
  | .nextValue _ => true
  | .release _ => true
  | .isActive _ => true
  | .isInAttack _ => true
  | .envReset _ => true
  | .lfoTick => true
  | .noiseNext => true
  | .voiceRender _ _ => true
  | .voiceUpdate _ => true
  | .voiceNoteOff _ => true
  | .voiceReset _ => true
  | .findFreeVoice => true
  | .calcPeriod _ note => isData7 note
  | .refreshPeriods _ => true
  | .startVoice _ note velocity => isData7 note && isData7 velocity
  | .noteOn note velocity => isData7 note && isData7 velocity && velocity != 0
  | .noteOff note => decide (-1 ≤ note) && decide (note ≤ 127)
  | .controlChange controller value => isData7 controller && isData7 value
  | .sustainPedalChange value => isData7 value
  | .panic => true
  | .setPitchBend b => decide (-8192 ≤ b) && decide (b ≤ 8191)
  | .reclaim => true
  | .safetyClamp _ => true
  | .derive => true

/-- `noteon <n> 0` is not a pseudo-command (30_encoding.md R146). -/
def PseudoCommand.wellFormed : PseudoCommand → Bool
  | .noteOn _ v => v != 0#7
  | .noteOff _ => true
  | .pedalDown => true
  | .pedalUp => true
  | .panic => true
  | .bend _ => true
  | .bendCenter => true

end Sys2Proof
end

