-- ==== Sys2Proof/Decode.lean ====
section
/-! DEFINITION. Decoding a MIDI message (30_encoding.md R130-R136) and, after it, the encoder. Host calls are
not bit-encoded (R140) and internal operations have no encoding (R142). -/

namespace Sys2Proof

/-! ## The command word and its fields (R130, R132) -/

/-- `W = b0·2^16 + b1·2^8 + b2` (R130). -/
def cmdWord (b0 b1 b2 : Byte) : CmdWord := b0 ++ b1 ++ b2

/-- The status nibble `h = W[23:20]`. -/
def CmdWord.h (w : CmdWord) : Nibble := BitVec.extractLsb' 20 4 w
/-- The channel nibble `c = W[19:16]`, ignored (R132). -/
def CmdWord.c (w : CmdWord) : Nibble := BitVec.extractLsb' 16 4 w
/-- `d1 = W[14:8]`; bit 15 is ignored (R132). -/
def CmdWord.d1 (w : CmdWord) : Data7 := BitVec.extractLsb' 8 7 w
/-- `d2 = W[6:0]`; bit 7 is ignored (R132). -/
def CmdWord.d2 (w : CmdWord) : Data7 := BitVec.extractLsb' 0 7 w

/-! ## The row of a command word (R133) -/

/-- The first row of R133's table that matches `w`. The last row takes what is left, `h = 0xF` (R134). -/
def rowOf (w : CmdWord) : MidiRow :=
  if BitVec.extractLsb' 23 1 w = 0#1 then .ignData
  else if w.h = 0x8#4 then .noteOff
  else if w.h = 0x9#4 ∧ w.d2 = 0#7 then .noteOnV0
  else if w.h = 0x9#4 then .noteOn
  else if w.h = 0xA#4 then .ignPolyPressure
  else if w.h = 0xB#4 ∧ w.d1 = 0x40#7 then .ccSustain
  else if w.h = 0xB#4 ∧ 0x78#7 ≤ w.d1 then .ccPanic
  else if w.h = 0xB#4 then .ccOther
  else if w.h = 0xC#4 then .ignProgram
  else if w.h = 0xD#4 then .ignChannelPressure
  else if w.h = 0xE#4 then .pitchBend
  else .ignSystem

/-- A row of spec/opcode_table.json: a word matches when its bits under `mask` are `value`. -/
structure TableRow where
  row : MidiRow
  value : CmdWord
  mask : CmdWord
  deriving DecidableEq, Repr

/-- The MIDI rows of spec/opcode_table.json with their match and mask, in the table's order; `rowOf` reads the
conditions of R133 and this list is the same table as numbers. -/
def midiTable : List TableRow :=
  [ ⟨.ignData, 0x000000, 0x800000⟩,
    ⟨.noteOff, 0x800000, 0xF00000⟩,
    ⟨.noteOnV0, 0x900000, 0xF0007F⟩,
    ⟨.noteOn, 0x900000, 0xF00000⟩,
    ⟨.ignPolyPressure, 0xA00000, 0xF00000⟩,
    ⟨.ccSustain, 0xB04000, 0xF07F00⟩,
    ⟨.ccPanic, 0xB07800, 0xF07800⟩,
    ⟨.ccOther, 0xB00000, 0xF00000⟩,
    ⟨.ignProgram, 0xC00000, 0xF00000⟩,
    ⟨.ignChannelPressure, 0xD00000, 0xF00000⟩,
    ⟨.pitchBend, 0xE00000, 0xF00000⟩,
    ⟨.ignSystem, 0xF00000, 0xF00000⟩ ]

/-- Whether a word matches a row's mask and value. -/
def TableRow.accepts (r : TableRow) (w : CmdWord) : Bool := w &&& r.mask == r.value

/-! ## Decode -/

/-- The instruction of a command word: every word has one (R134). -/
def decodeWord (w : CmdWord) : Instr :=
  match rowOf w with
  | .ignData => .midiIgnData (BitVec.extractLsb' 20 3 w) w.c w.d1 w.d2
  | .noteOff => .midiNoteOff w.c w.d1 w.d2
  | .noteOnV0 => .midiNoteOnV0 w.c w.d1
  | .noteOn => .midiNoteOn w.c w.d1 w.d2
  | .ignPolyPressure => .midiIgnPolyPressure w.c w.d1 w.d2
  | .ccSustain => .midiCcSustain w.c w.d2
  | .ccPanic => .midiCcPanic w.c (BitVec.extractLsb' 8 3 w) w.d2
  | .ccOther => .midiCcOther w.c w.d1 w.d2
  | .ignProgram => .midiIgnProgram w.c w.d1 w.d2
  | .ignChannelPressure => .midiIgnChannelPressure w.c w.d1 w.d2
  | .pitchBend => .midiPitchBend w.c w.d1 w.d2
  | .ignSystem => .midiIgnSystem w.c w.d1 w.d2

/-- Why a message is not decoded: both kinds are ignored whole (R131). -/
inductive DecodeReject where
  | emptyMessage
  | longMessage
  deriving DecidableEq, Repr

/-- The command word of a message: a missing byte is read as 0, a message of no byte or of more than three
has none (R131). -/
def wordOfMessage : List Byte → Except DecodeReject CmdWord
  | [] => .error .emptyMessage
  | [b0] => .ok (cmdWord b0 0 0)
  | [b0, b1] => .ok (cmdWord b0 b1 0)
  | [b0, b1, b2] => .ok (cmdWord b0 b1 b2)
  | _ :: _ :: _ :: _ :: _ => .error .longMessage

/-- The instruction of a message, total on any bytes. -/
def decode (bytes : List Byte) : Except DecodeReject Instr :=
  match wordOfMessage bytes with
  | .error r => .error r
  | .ok w => .ok (decodeWord w)

/-! ## Encode -/

/-- The three bytes of a message with status nibble `h`, channel `c` and data `d1`, `d2` (R130); the ignored
bits 15 and 7 are written 0. -/
def message (h c : Nibble) (d1 d2 : Data7) : List Byte :=
  [h ++ c, 0#1 ++ d1, 0#1 ++ d2]

/-- The bytes of an instruction of a MIDI row; `none` for the instructions that have no encoding (R140, R142). -/
def encode : Instr → Option (List Byte)
  | .midiIgnData h c d1 d2 => some (message (0#1 ++ h) c d1 d2)
  | .midiNoteOff c d1 d2 => some (message 0x8 c d1 d2)
  | .midiNoteOnV0 c d1 => some (message 0x9 c d1 0)
  | .midiNoteOn c d1 d2 => some (message 0x9 c d1 d2)
  | .midiIgnPolyPressure c d1 d2 => some (message 0xA c d1 d2)
  | .midiCcSustain c d2 => some (message 0xB c 0x40 d2)
  | .midiCcPanic c k d2 => some (message 0xB c (0xF#4 ++ k) d2)
  | .midiCcOther c d1 d2 => some (message 0xB c d1 d2)
  | .midiIgnProgram c d1 d2 => some (message 0xC c d1 d2)
  | .midiIgnChannelPressure c d1 d2 => some (message 0xD c d1 d2)
  | .midiPitchBend c d1 d2 => some (message 0xE c d1 d2)
  | .midiIgnSystem c d1 d2 => some (message 0xF c d1 d2)
  | .hostAlloc _ _ => none
  | .hostDealloc => none
  | .hostReset => none
  | .hostRender _ => none
  | .hostSetParam _ _ => none
  | .hostMidi _ => none
  | .oscReset _ _ => none
  | .nextSample _ _ => none
  | .oscRender _ _ => none
  | .squareWave _ _ => none
  | .updateCoefficients _ _ _ => none
  | .filterRender _ _ => none
  | .filterReset _ => none
  | .attack _ => none
  | .nextValue _ => none
  | .release _ => none
  | .isActive _ => none
  | .isInAttack _ => none
  | .envReset _ => none
  | .lfoTick => none
  | .noiseNext => none
  | .voiceRender _ _ => none
  | .voiceUpdate _ => none
  | .voiceNoteOff _ => none
  | .voiceReset _ => none
  | .findFreeVoice => none
  | .calcPeriod _ _ => none
  | .refreshPeriods _ => none
  | .startVoice _ _ _ => none
  | .noteOn _ _ => none
  | .noteOff _ => none
  | .controlChange _ _ => none
  | .sustainPedalChange _ => none
  | .panic => none
  | .setPitchBend _ => none
  | .reclaim => none
  | .safetyClamp _ => none
  | .derive => none

/-! ## Pseudo-commands -/

/-- The message a pseudo-command expands to (30_encoding.md R146). -/
def PseudoCommand.bytes : PseudoCommand → List Byte
  | .noteOn n v => message 0x9 0 n v
  | .noteOff n => message 0x8 0 n 0
  | .pedalDown => message 0xB 0 0x40 0x7F
  | .pedalUp => message 0xB 0 0x40 0
  | .panic => message 0xB 0 0x7B 0
  | .bend b => message 0xE 0 (BitVec.extractLsb' 0 7 b) (BitVec.extractLsb' 7 7 b)
  | .bendCenter => message 0xE 0 0 0x40

/-- The expansion: a `midi` command. -/
def PseudoCommand.toCommand (p : PseudoCommand) : Command := .midi p.bytes

/-! ## The table's numbering -/

/-- The message whose command word is `w`, a table row's bits numbered as spec/opcode_table.json numbers them:
the row is one 24-bit word, byte 0 in bits 23..16 (assumption 13). -/
def tableMessage (w : Nat) : List Byte :=
  [BitVec.ofNat 8 (w / 2 ^ 16), BitVec.ofNat 8 (w / 2 ^ 8), BitVec.ofNat 8 w]

/-- The instruction the decoder reads from a table row's bits. -/
def decodeTableWord (nbits w : Nat) : Option Instr :=
  if nbits ≤ 24 ∧ w < 2 ^ nbits then
    match decode (tableMessage w) with
    | .ok i => some i
    | .error _ => none
  else none

end Sys2Proof
end

