-- ==== Sys2Proof/Machine/Float32.lean ====
section
/-! DEFINITION. binary32 arithmetic (00_scope.md R10, R11, R12, R14, R18): operands become exact integers,
the result is computed exactly and rounded once, to nearest, ties to even. -/

namespace Sys2Proof.F32

/-! ## Values as integers

Every finite binary32 value is a whole number of UNITS of 2^-149, the least subnormal. -/

/-- The magnitude of a finite value, in units of 2^-149. -/
def units (expo : Fin 255) (frac : BitVec 23) : Nat :=
  if expo.val = 0 then frac.toNat else (2 ^ 23 + frac.toNat) * 2 ^ (expo.val - 1)

/-- The signed value of a finite number, in units of 2^-149. -/
def signed (neg : Bool) (expo : Fin 255) (frac : BitVec 23) : Int :=
  if neg then -(units expo frac : Int) else (units expo frac : Int)

/-- The zero of sign `neg`. -/
def zero (neg : Bool) : F32 := .num neg 0 0

/-! ## Rounding -/

/-- The integer nearest `a / b`, the even one of two equally near. -/
def nearestEven (a b : Nat) : Nat :=
  let q := a / b
  let r := a % b
  if 2 * r < b then q else if b < 2 * r then q + 1 else q + q % 2

/-- The finite value of biased exponent `e`, or infinity past the largest exponent. -/
def ofExpo (neg : Bool) (e : Nat) (frac : Nat) : F32 :=
  if h : e < 255 then .num neg ⟨e, h⟩ (BitVec.ofNat 23 frac) else .inf neg

/-- The value `n · 2^s` units of 2^-149, for a significand `n ≤ 2^24` (with `2^23 ≤ n` unless `s = 0`). -/
def pack (neg : Bool) (n s : Nat) : F32 :=
  if n < 2 ^ 23 then ofExpo neg 0 n
  else if n < 2 ^ 24 then ofExpo neg (s + 1) (n - 2 ^ 23)
  else ofExpo neg (s + 2) 0

/-- How many low bits of the quotient `a / b` lie below a 24-bit significand. -/
def excess (a b : Nat) : Nat := Nat.log2 (a / b) - 23

/-- `± a / b` units of 2^-149, rounded to nearest, ties to even (00_scope.md R10). -/
def round (neg : Bool) (a b : Nat) : F32 :=
  pack neg (nearestEven a (b * 2 ^ excess a b)) (excess a b)

/-! ## Bit patterns -/

/-- The value of a binary32 bit pattern (00_scope.md R13). -/
def ofBits (w : Word32) : F32 :=
  let neg := w.getLsbD 31
  let e := (BitVec.extractLsb' 23 8 w).toNat
  let f := BitVec.extractLsb' 0 23 w
  if h : e < 255 then .num neg ⟨e, h⟩ f else if f = 0 then .inf neg else .nan

/-- The bit pattern of a value; a NaN has no particular one (00_scope.md R18). -/
def toBits : F32 → Option Word32
  | .nan => none
  | .inf neg => some ((if neg then 1#1 else 0#1) ++ 255#8 ++ 0#23)
  | .num neg e f => some ((if neg then 1#1 else 0#1) ++ BitVec.ofNat 8 e.val ++ f)

/-- The binary32 value nearest the decimal `a / b` (00_scope.md R13). -/
def nearest (a b : Nat) : F32 := round false (a * 2 ^ 149) b

/-! ## Classes -/

/-- "is NaN" (00_scope.md R18). -/
def isNaN : F32 → Bool
  | .nan => true
  | .inf _ => false
  | .num _ _ _ => false

/-- "is ±infinity". -/
def isInf : F32 → Bool
  | .nan => false
  | .inf _ => true
  | .num _ _ _ => false

/-- A non-zero value below the least normal. -/
def isSubnormal : F32 → Bool
  | .nan => false
  | .inf _ => false
  | .num _ e f => e.val == 0 && f != 0#23

/-- What an operand is read as and a result replaced by: with `FTZ` a subnormal becomes the zero of its sign
(00_scope.md R18). -/
def flush (x : F32) : F32 :=
  match isSubnormal x with
  | false => x
  | true =>
    match Config.ftz with
    | false => x
    | true =>
      match x with
      | .nan => .nan
      | .inf neg => .inf neg
      | .num neg _ _ => zero neg

/-! ## IEEE 754 operations, before flushing -/

/-- Sign negation, exact (00_scope.md R10); no flushing (assumption 14). -/
def neg : F32 → F32
  | .nan => .nan
  | .inf s => .inf (!s)
  | .num s e f => .num (!s) e f

/-- The exact sum, rounded; an exact zero sum is +0 unless both operands are -0. -/
def addExact : F32 → F32 → F32
  | .nan, _ => .nan
  | .inf _, .nan => .nan
  | .num _ _ _, .nan => .nan
  | .inf s, .inf t => if s = t then .inf s else .nan
  | .inf s, .num _ _ _ => .inf s
  | .num _ _ _, .inf t => .inf t
  | .num s e f, .num t e' f' =>
    let z := signed s e f + signed t e' f'
    if z = 0 then zero (s && t) else round (decide (z < 0)) z.natAbs 1

/-- The exact product, rounded; 0 · infinity is NaN. -/
def mulExact : F32 → F32 → F32
  | .nan, _ => .nan
  | .inf _, .nan => .nan
  | .num _ _ _, .nan => .nan
  | .inf s, .inf t => .inf (s ^^ t)
  | .inf s, .num t e f => if units e f = 0 then .nan else .inf (s ^^ t)
  | .num s e f, .inf t => if units e f = 0 then .nan else .inf (s ^^ t)
  | .num s e f, .num t e' f' => round (s ^^ t) (units e f * units e' f') (2 ^ 149)

/-- The exact quotient, rounded; 0/0 and infinity/infinity are NaN, x/0 is infinity. -/
def divExact : F32 → F32 → F32
  | .nan, _ => .nan
  | .inf _, .nan => .nan
  | .num _ _ _, .nan => .nan
  | .inf _, .inf _ => .nan
  | .inf s, .num t _ _ => .inf (s ^^ t)
  | .num s _ _, .inf t => zero (s ^^ t)
  | .num s e f, .num t e' f' =>
    if units e' f' = 0 then (if units e f = 0 then .nan else .inf (s ^^ t))
    else round (s ^^ t) (units e f * 2 ^ 149) (units e' f')

/-- Ordered less-than (00_scope.md R11): false with a NaN, -0 equal to +0. -/
def ltExact : F32 → F32 → Bool
  | .nan, _ => false
  | .inf _, .nan => false
  | .num _ _ _, .nan => false
  | .inf s, .inf t => s && !t
  | .inf s, .num _ _ _ => s
  | .num _ _ _, .inf t => !t
  | .num s e f, .num t e' f' => decide (signed s e f < signed t e' f')

/-- Ordered less-or-equal. -/
def leExact : F32 → F32 → Bool
  | .nan, _ => false
  | .inf _, .nan => false
  | .num _ _ _, .nan => false
  | .inf s, .inf t => s || !t
  | .inf s, .num _ _ _ => s
  | .num _ _ _, .inf t => !t
  | .num s e f, .num t e' f' => decide (signed s e f ≤ signed t e' f')

/-! ## The operators of the pseudocode -/

/-- `x ⊕ y`. -/
def add (x y : F32) : F32 := flush (addExact (flush x) (flush y))
/-- `x ⊖ y`. -/
def sub (x y : F32) : F32 := flush (addExact (flush x) (neg (flush y)))
/-- `x ⊗ y`. -/
def mul (x y : F32) : F32 := flush (mulExact (flush x) (flush y))
/-- `x ⊘ y`. -/
def div (x y : F32) : F32 := flush (divExact (flush x) (flush y))

/-- `x < y`. -/
def lt (x y : F32) : Bool := ltExact (flush x) (flush y)
/-- `x ≤ y`. -/
def le (x y : F32) : Bool := leExact (flush x) (flush y)
/-- `x > y`. -/
def gt (x y : F32) : Bool := lt y x
/-- `x ≥ y`. -/
def ge (x y : F32) : Bool := le y x
/-- `x == y`. -/
def eq (x y : F32) : Bool := le x y && le y x

/-- `clamp(x, lo, hi)` (00_scope.md R11). -/
def clamp (x lo hi : F32) : F32 := if lt x lo then lo else if gt x hi then hi else x
/-- `min(a, b)` (00_scope.md R11). -/
def min (a b : F32) : F32 := if lt a b then a else b

/-- `float(i)` (00_scope.md R10): exact for |i| ≤ 2^24. -/
def ofInt (i : Int) : F32 := round (decide (i < 0)) (i.natAbs * 2 ^ 149) 1

/-- `floor(x)`, the exact floor of a binary32 value (00_scope.md R10). A NaN, an infinity and a zero are their own floor, and a
zero floor keeps the operand's sign: R10 states none of these (PRESUMED, from IEEE 754, assumption 23). -/
def floor : F32 → F32
  | .nan => .nan
  | .inf s => .inf s
  | .num s e f =>
    let q := signed s e f / 2 ^ 149
    if q = 0 then zero s else round (decide (q < 0)) (q.natAbs * 2 ^ 149) 1

/-- The binary64 value nearest 1e-9, in units of 2^-149: its 53-bit significand times 2^67 (00_scope.md R13). -/
def phaseEpsUnits : Nat := 0x112E0BE826D695 * 2 ^ 67

/-- `x > PHASE_EPS`, compared exactly with the binary64 value nearest 1e-9 (00_scope.md R14). -/
def gtPhaseEps (x : F32) : Bool :=
  match flush x with
  | .nan => false
  | .inf s => !s
  | .num s e f => decide ((phaseEpsUnits : Int) < signed s e f)

/-! ## The functions `F` (00_scope.md R12), with `FTZ` (R18) -/

/-- `sin(x)`. -/
def sin (x : F32) : F32 := flush (Config.sin (flush x))
/-- `cos(x)`. -/
def cos (x : F32) : F32 := flush (Config.cos (flush x))
/-- `tan(x)`. -/
def tan (x : F32) : F32 := flush (Config.tan (flush x))
/-- `exp(x)`. -/
def exp (x : F32) : F32 := flush (Config.exp (flush x))
/-- `pow(x, y)`. -/
def pow (x y : F32) : F32 := flush (Config.pow (flush x) (flush y))

end Sys2Proof.F32
end

