-- ==== Sys2Proof/Machine/Constants.lean ====
section
/-! DEFINITION. The binary32 constants of the rules (00_scope.md R7, R8, R13) and the parameter ranges and
defaults (10_state.md R70). Each is the bit pattern of the binary32 value nearest the decimal literal. -/

namespace Sys2Proof.K

/-- 0.0. -/
def zero : F32 := .ofBits 0x00000000
/-- 1.0, also `CLAMP_LIMIT`. -/
def one : F32 := .ofBits 0x3F800000
/-- 0.5. -/
def half : F32 := .ofBits 0x3F000000
/-- 2.0, also `ATTACK_TARGET` and `SILENCE_LIMIT`. -/
def two : F32 := .ofBits 0x40000000
/-- 3.0, also `DECAY_TRIGGER`. -/
def three : F32 := .ofBits 0x40400000
/-- 4.0. -/
def four : F32 := .ofBits 0x40800000
/-- 5.5. -/
def fiveHalf : F32 := .ofBits 0x40B00000
/-- 6.0, also `PERIOD_MIN`. -/
def six : F32 := .ofBits 0x40C00000
/-- 7.0. -/
def seven : F32 := .ofBits 0x40E00000
/-- 8.0. -/
def eight : F32 := .ofBits 0x41000000
/-- 24.0, also the pan span in semitones. -/
def twentyFour : F32 := .ofBits 0x41C00000
/-- 30.0, also `CUTOFF_MIN` in Hz. -/
def thirty : F32 := .ofBits 0x41F00000
/-- 32.0, `float(LFO_MAX)`. -/
def floatLfoMax : F32 := .ofBits 0x42000000
/-- 100.0. -/
def hundred : F32 := .ofBits 0x42C80000
/-- 0.004: the factor of the velocity curve and the default of P14. -/
def fourThousandths : F32 := .ofBits 0x3B83126F
/-- 0.01. -/
def cent : F32 := .ofBits 0x3C23D70A
/-- 0.075, of 42_envelope.md R284. -/
def expTcSlope : F32 := .ofBits 0x3D99999A
/-- 1.059463, the detune base. -/
def detuneBase : F32 := .ofBits 0x3F879C7C
/-- 0.45, of 41_filter.md R245. -/
def nyquistShare : F32 := .ofBits 0x3EE66666
/-- 20000.0, of 41_filter.md R245, Hz. -/
def cutoffCap : F32 := .ofBits 0x469C4000
/-- 8000.0, the least legal sample rate, Hz. -/
def sampleRateMin : F32 := .ofBits 0x45FA0000
/-- 192000.0, the greatest legal sample rate, Hz. -/
def sampleRateMax : F32 := .ofBits 0x483B8000
/-- 0.0001, `SILENCE`. -/
def silence : F32 := .ofBits 0x38D1B717
/-- 0.997, `LEAK`. -/
def leak : F32 := .ofBits 0x3F7F3B64
/-- 0.002, `ANALOG`. -/
def analog : F32 := .ofBits 0x3B03126F
/-- 0.75, `FAST_RELEASE`. -/
def fastRelease : F32 := .ofBits 0x3F400000
/-- 0.000014102, `BEND_COEF`. -/
def bendCoef : F32 := .ofBits 0x376C97A1
/-- 0.05776226505, `LN2_12`. -/
def ln2Over12 : F32 := .ofBits 0x3D6C9820
/-- 8.1757989156, `F_NOTE0`, Hz. -/
def fNote0 : F32 := .ofBits 0x4102D013
/-- 2^24. -/
def noiseScale : F32 := .ofBits 0x4B800000
/-- 3.14159265358979, `PI`. -/
def pi : F32 := .ofBits 0x40490FDB
/-- 0.785398163397448, `PI_OVER_4`, also `PHASE_TRIGGER`. -/
def piOver4 : F32 := .ofBits 0x3F490FDB
/-- 6.28318530717959, `TWO_PI`. -/
def twoPi : F32 := .ofBits 0x40C90FDB
/-- 20.0. -/
def twenty : F32 := .ofBits 0x41A00000
/-- 50.0. -/
def fifty : F32 := .ofBits 0x42480000
/-- 0.707. -/
def qDefault : F32 := .ofBits 0x3F34FDF4
/-- 0.9. -/
def nineTenths : F32 := .ofBits 0x3F666666
/-- -1.0. -/
def minusOne : F32 := one.neg
/-- -2.0. -/
def minusTwo : F32 := two.neg
/-- `PAN_CENTER = sin(PI_OVER_4)` (00_scope.md R13, 44_voice.md R315; assumption 15). -/
def panCenter : F32 := piOver4.sin

/-- Start level of the voice search (45_engine_midi.md R336). -/
def searchStart : F32 := hundred

/-- Noise generator: multiplier, increment and seed (00_scope.md R8; 43_lfo_noise.md R296). -/
def lcgMultiplier : Word32 := 196314165
/-- See `lcgMultiplier`. -/
def lcgIncrement : Word32 := 907633515
/-- The seed at power-on and after RESET (10_state.md R55). -/
def lcgSeed : Word32 := 22222

/-- `IGNORED_VELOCITY` (00_scope.md R8). -/
def ignoredVelocity : Nat := 80
/-- `SUSTAIN_CC` (00_scope.md R7). -/
def sustainCc : Nat := 0x40
/-- `PANIC_CC_MIN` (00_scope.md R7). -/
def panicCcMin : Nat := 0x78
/-- `BEND_CENTER` (00_scope.md R7). -/
def bendCenter : Int := 8192
/-- The value from which the sustain pedal is down (45_engine_midi.md R345). -/
def pedalThreshold : Nat := 64

/-! ## Parameter registers (10_state.md R70) -/

/-- The least and the greatest legal value of a parameter, its power-on value, and whether it is a switch. -/
structure ParamSpec where
  lo : F32
  hi : F32
  powerOn : F32
  isSwitch : Bool
  deriving DecidableEq, Repr

/-- The table of 10_state.md R70, in id order. -/
def paramTable : Vector ParamSpec 20 := #v[
  -- P0 envAttackPct: [0.0, 100.0], default 0.0
  ⟨zero, hundred, zero, false⟩,
  -- P1 envDecayPct: [0.0, 100.0], default 50.0
  ⟨zero, hundred, fifty, false⟩,
  -- P2 envSustainPct: [0.0, 100.0], default 100.0
  ⟨zero, hundred, hundred, false⟩,
  -- P3 envReleasePct: [0.0, 100.0], default 30.0
  ⟨zero, hundred, thirty, false⟩,
  -- P4 oscTuneSemis: [-24.0, 24.0], default 0.0
  ⟨twentyFour.neg, twentyFour, zero, false⟩,
  -- P5 oscFineCents: [-50.0, 50.0], default 0.0
  ⟨fifty.neg, fifty, zero, false⟩,
  -- P6 oscMix: [0.0, 1.0], default 0.0
  ⟨zero, one, zero, false⟩,
  -- P7 tuningCents: [-100.0, 100.0], default 0.0
  ⟨hundred.neg, hundred, zero, false⟩,
  -- P8 lfoRate: [0.0, 1.0], default 0.5
  ⟨zero, one, half, false⟩,
  -- P9 vibratoDepth: [0.0, 0.5], default 0.0
  ⟨zero, half, zero, false⟩,
  -- P10 filterLfoDepth: [0.0, 0.9], default 0.0
  ⟨zero, nineTenths, zero, false⟩,
  -- P11 filterCutoff: [30.0, 20000.0], default 20000.0
  ⟨thirty, cutoffCap, cutoffCap, false⟩,
  -- P12 filterQ: [0.5, 20.0], default 0.707
  ⟨half, twenty, qDefault, false⟩,
  -- P13 noiseMix: [0.0, 1.0], default 0.0
  ⟨zero, one, zero, false⟩,
  -- P14 volumeTrim: [0.0, 0.01], default 0.004
  ⟨zero, cent, fourThousandths, false⟩,
  -- P15 outputLevel: [0.0, 1.0], default 1.0
  ⟨zero, one, one, false⟩,
  -- P16 polyMode: [0.0, 1.0], default 1.0, switch
  ⟨zero, one, one, true⟩,
  -- P17 ignoreVelocity: [0.0, 1.0], default 0.0, switch
  ⟨zero, one, zero, true⟩,
  -- P18 velocitySensitivity: [0.0, 1.0], default 0.0
  ⟨zero, one, zero, false⟩,
  -- P19 waveform: [0.0, 1.0], default 0.0, switch
  ⟨zero, one, zero, true⟩ ]

end Sys2Proof.K
end

