-- ==== Sys2Proof/Machine/State.lean ====
section
/-! DEFINITION. The state of the block (10_state.md), plain data, and the state after power-on
(70_reset_and_hazards.md R430). -/

namespace Sys2Proof.Machine

/-- Why the machine stops. -/
inductive Fault where
  /-- The period-doubling loop of 45_engine_midi.md R339 never ends: raised by calcPeriod and by what calls it
  (startVoice, noteOn, NOTE_ON, MIDI), only when the base period is zero or negative, or the detune ratio
  negative, which no legal parameter under a positive `exp` and `pow` gives. The hardware would stay in the
  loop; stopping is SAFE (assumption 9). -/
  | periodLoopDiverges
  deriving DecidableEq, Repr

/-- Why the model gives no meaning. -/
inductive Refusal where
  /-- No meaning written yet for the instruction of this mnemonic: raised by an arm of exec only. SAFE. No arm
  raises it now. (A command the SPEC refuses is a next state, see `State.refuse`.) -/
  | notModelled (mnemonic : String)
  deriving DecidableEq, Repr

/-- The registers of an oscillator (10_state.md R35). -/
structure Osc where
  period : F32
  amplitude : F32
  modulation : F32
  phase : F32
  inc : F32
  phaseMax : F32
  dc : F32
  sin0 : F32
  sin1 : F32
  dsin : F32
  saw : F32
  polarity : F32
  deriving DecidableEq, Repr

/-- The registers of an envelope (10_state.md R40). -/
structure Env where
  level : F32
  target : F32
  multiplier : F32
  attackMultiplier : F32
  decayMultiplier : F32
  sustainLevel : F32
  releaseMultiplier : F32
  deriving DecidableEq, Repr

/-- The registers of a filter (10_state.md R45). -/
structure Filter where
  g : F32
  k : F32
  a1 : F32
  a2 : F32
  a3 : F32
  ic1eq : F32
  ic2eq : F32
  deriving DecidableEq, Repr

/-- A voice slot (10_state.md R31). -/
structure Voice where
  note : Int
  velocity : Nat
  period : F32
  osc1 : Osc
  osc2 : Osc
  env : Env
  filter : Filter
  panLeft : F32
  panRight : F32
  deriving DecidableEq, Repr

/-- The LFO (10_state.md R50); its increment is a derived coefficient. -/
structure Lfo where
  step : Int
  phase : F32
  vib : F32
  filt : F32
  deriving DecidableEq, Repr

/-- The engine registers (10_state.md R60). -/
structure Engine where
  sampleRate : F32
  blockSize : Int
  allocated : Bool
  ready : Bool
  numVoices : Nat
  pitchBend : F32
  sustainPedal : Bool
  deriving DecidableEq, Repr

/-- The derived-coefficient registers (10_state.md R65). -/
structure Derived where
  envAttack : F32
  envDecay : F32
  envSustain : F32
  envRelease : F32
  detune : F32
  tuneBase : F32
  lfoInc : F32
  cutoffMax : F32
  deriving DecidableEq, Repr

/-- The output space (20_memory.md R100 item 1, R101): the words of the two channels written by the render call
under way, or, between commands, by the last one that ran. Word `i` is the list's entry `i`. -/
structure Memory where
  left : List F32
  right : List F32
  deriving DecidableEq, Repr

/-- The canonical form of the output space between commands: both channels hold the same number of words. A
list of words has one form only, so equal contents are equal data. -/
abbrev Memory.wf (m : Memory) : Prop := m.left.length = m.right.length

/-- What an internal operation, executed on its own, returned (assumption 7). -/
inductive RetVal where
  | nothing
  | word (x : F32)
  | flag (b : Bool)
  | voice (v : VoiceIdx)
  deriving DecidableEq, Repr

/-- The whole state. -/
structure State where
  /-- `voice[0]` to `voice[7]` (10_state.md R31). -/
  voices : Vector Voice 8
  lfo : Lfo
  /-- The noise generator's register (10_state.md R55). -/
  seed : Word32
  engine : Engine
  derived : Derived
  /-- P0 to P19 (10_state.md R70). -/
  params : Vector F32 20
  /-- `FAULT_PERIOD_LOW`, sticky (10_state.md R80). -/
  periodLow : Bool
  /-- `REFUSED`, sticky (10_state.md R80). -/
  refused : Bool
  /-- The first refused command since power-on, with its operands (10_state.md R80, 60_exceptions.md R406). -/
  firstRefused : Option Command
  memory : Memory
  /-- The commands the host has still to have executed, the next one first (20_memory.md R100, R110). The
  model's own field: the block stores no command (20_memory.md R115; assumption 3). -/
  port : List Command
  /-- The model's own field (assumption 7). -/
  ret : RetVal
  deriving DecidableEq, Repr

/-! ## Power-on values (70_reset_and_hazards.md R430) -/

/-- An oscillator at power-on (10_state.md R35). -/
def Osc.powerOn : Osc :=
  { period := K.zero, amplitude := K.one, modulation := K.one, phase := K.zero, inc := K.zero,
    phaseMax := K.zero, dc := K.zero, sin0 := K.zero, sin1 := K.zero, dsin := K.zero, saw := K.zero,
    polarity := K.one }

/-- An envelope at power-on (10_state.md R40). -/
def Env.powerOn : Env :=
  { level := K.zero, target := K.zero, multiplier := K.zero, attackMultiplier := K.zero,
    decayMultiplier := K.zero, sustainLevel := K.zero, releaseMultiplier := K.zero }

/-- A filter at power-on (10_state.md R45). -/
def Filter.powerOn : Filter :=
  { g := K.zero, k := K.zero, a1 := K.zero, a2 := K.zero, a3 := K.zero, ic1eq := K.zero, ic2eq := K.zero }

/-- A voice slot at power-on (10_state.md R31). -/
def Voice.powerOn : Voice :=
  { note := 0, velocity := 0, period := K.zero, osc1 := .powerOn, osc2 := .powerOn, env := .powerOn,
    filter := .powerOn, panLeft := K.panCenter, panRight := K.panCenter }

/-- The LFO at power-on and after RESET (10_state.md R50). -/
def Lfo.powerOn : Lfo := { step := 0, phase := K.zero, vib := K.one, filt := K.one }

/-- The engine registers at power-on (10_state.md R60). -/
def Engine.powerOn : Engine :=
  { sampleRate := K.zero, blockSize := 0, allocated := false, ready := false, numVoices := 8,
    pitchBend := K.one, sustainPedal := false }

/-- The derived coefficients before the first ALLOC: the spec gives them no value; 0.0 is the model's choice
(DESIGN CHOICE, unsafe, assumption 2). -/
def Derived.powerOn : Derived :=
  { envAttack := K.zero, envDecay := K.zero, envSustain := K.zero, envRelease := K.zero, detune := K.zero,
    tuneBase := K.zero, lfoInc := K.zero, cutoffMax := K.zero }

/-- The parameter registers at their defaults (10_state.md R70). -/
def paramDefaults : Vector F32 20 := Vector.ofFn fun i => (K.paramTable[i]).powerOn

/-- The state after power-on (70_reset_and_hazards.md R430; assumption 1). -/
def State.reset : State :=
  { voices := Vector.replicate 8 .powerOn, lfo := .powerOn, seed := K.lcgSeed, engine := .powerOn,
    derived := .powerOn, params := paramDefaults, periodLow := false, refused := false, firstRefused := none,
    memory := { left := [], right := [] }, port := [], ret := .nothing }

end Sys2Proof.Machine
end

