-- ==== Sys2Proof/Machine/Ops.lean ====
section
/-! DEFINITION. The operations over registers and output words that the meanings share: every register is read
and written through them. Also the two records (60_exceptions.md R402): the block takes no exception and
returns from none (R400, R408, R409), it refuses a command or raises a flag and goes on. -/

namespace Sys2Proof.Machine

/-! ## Voices (10_state.md R31) -/

/-- `voice[v]`. -/
def State.voice (s : State) (v : VoiceIdx) : Voice := s.voices[v]

/-- Write one voice slot. -/
def State.setVoice (s : State) (v : VoiceIdx) (x : Voice) : State := { s with voices := s.voices.set v x }

/-- `for v in 0..7: voice[v] <- f v voice[v]`, for an `f` that reads no other slot. -/
def State.mapVoices (s : State) (f : VoiceIdx → Voice → Voice) : State :=
  { s with voices := Vector.ofFn fun v => f v s.voices[v] }

/-- The slot indices in increasing order: `for v in 0..7` (00_scope.md R16). -/
def voiceOrder : List VoiceIdx := [0, 1, 2, 3, 4, 5, 6, 7]

/-- One of a voice's oscillators. -/
def Voice.osc (x : Voice) : OscId → Osc
  | .osc1 => x.osc1
  | .osc2 => x.osc2

/-- Write one of a voice's oscillators. -/
def Voice.setOsc (x : Voice) (o : OscId) (y : Osc) : Voice :=
  match o with
  | .osc1 => { x with osc1 := y }
  | .osc2 => { x with osc2 := y }

/-- Write a voice's envelope. -/
def Voice.setEnv (x : Voice) (e : Env) : Voice := { x with env := e }

/-- Write a voice's filter. -/
def Voice.setFilter (x : Voice) (f : Filter) : Voice := { x with filter := f }

/-- Write a voice's `note`. -/
def Voice.setNote (x : Voice) (n : Int) : Voice := { x with note := n }

/-- Replace the envelope of `voice[v]`. -/
def State.updEnv (s : State) (v : VoiceIdx) (f : Env → Env) : State :=
  s.setVoice v ((s.voice v).setEnv (f (s.voice v).env))

/-- Replace the filter of `voice[v]`. -/
def State.updFilter (s : State) (v : VoiceIdx) (f : Filter → Filter) : State :=
  s.setVoice v ((s.voice v).setFilter (f (s.voice v).filter))

/-- Replace oscillator `o` of `voice[v]`. -/
def State.updOsc (s : State) (v : VoiceIdx) (o : OscId) (f : Osc → Osc) : State :=
  s.setVoice v ((s.voice v).setOsc o (f ((s.voice v).osc o)))

/-! ## Engine, LFO, noise, parameters -/

/-- Write the LFO's registers. -/
def State.setLfo (s : State) (l : Lfo) : State := { s with lfo := l }
/-- Write the noise seed. -/
def State.setSeed (s : State) (w : Word32) : State := { s with seed := w }
/-- Write the engine registers. -/
def State.setEngine (s : State) (e : Engine) : State := { s with engine := e }
/-- Write the derived coefficients. -/
def State.setDerived (s : State) (d : Derived) : State := { s with derived := d }
/-- `P<i>` (10_state.md R70). -/
def State.param (s : State) (i : Fin 20) : F32 := s.params[i]
/-- `P<i> <- x`. -/
def State.setParam (s : State) (i : Fin 20) (x : F32) : State := { s with params := s.params.set i x }
/-- `pitchBend <- x`. -/
def State.setPitchBend (s : State) (x : F32) : State := s.setEngine { s.engine with pitchBend := x }
/-- `sustainPedal <- b`. -/
def State.setSustainPedal (s : State) (b : Bool) : State := s.setEngine { s.engine with sustainPedal := b }

/-! ## Output words (20_memory.md R101) -/

/-- The words of a channel. -/
def Memory.words (m : Memory) : Channel → List F32
  | .left => m.left
  | .right => m.right

/-- Replace the words of a channel. -/
def Memory.setWords (m : Memory) (ch : Channel) (ws : List F32) : Memory :=
  match ch with
  | .left => { m with left := ws }
  | .right => { m with right := ws }

/-- `OutRead(ch, i)`: the word last stored there in this render call; none where no word has been stored. -/
def Memory.outRead (m : Memory) (ch : Channel) (i : Nat) : Option F32 := (m.words ch)[i]?

/-- A list with its entry `i` replaced, or extended by it where `i` is the next index. The render loop writes
the words in increasing index and no rule forms another index (20_memory.md R101, R102). -/
def writeWord (ws : List F32) (i : Nat) (x : F32) : List F32 :=
  if i < ws.length then ws.set i x else if i = ws.length then ws ++ [x] else ws

/-- `OutWrite(ch, i, x)`. -/
def Memory.outWrite (m : Memory) (ch : Channel) (i : Nat) (x : F32) : Memory :=
  m.setWords ch (writeWord (m.words ch) i x)

/-- The output space at the start of a render call: no word stored yet (20_memory.md R101). -/
def Memory.empty : Memory := { left := [], right := [] }

/-- Replace the output space. -/
def State.setMemory (s : State) (m : Memory) : State := { s with memory := m }

/-! ## The two records, the port, the returned value -/

/-- `refuse` (00_scope.md R16, 60_exceptions.md R406): the command changes nothing; REFUSED is set and, at the
first refusal since power-on, the command and its operands are recorded. -/
def State.refuse (s : State) (c : Command) : State :=
  { s with refused := true, firstRefused := if s.refused then s.firstRefused else some c }

/-- `raise Fault(PERIOD_LOW)` where `low` holds (00_scope.md R16, 60_exceptions.md R402): the flag is sticky and
the operation goes on. -/
def State.raisePeriodLow (s : State) (low : Bool) : State := { s with periodLow := s.periodLow || low }

/-- The commands still to come. -/
def State.setPort (s : State) (cs : List Command) : State := { s with port := cs }

/-- What an internal operation, executed on its own, returned (assumption 7). -/
def State.setRet (s : State) (r : RetVal) : State := { s with ret := r }

end Sys2Proof.Machine
end

