-- ==== Sys2Proof/Machine/Operands.lean ====
section
/-! DEFINITION. Operand assembly (30_encoding.md R135) and the operands that rules read under a name: the
parameters P0-P19 (10_state.md R70), the effective detune (45_engine_midi.md R337). -/

namespace Sys2Proof.Machine

/-! ## MIDI operands (30_encoding.md R135) -/

/-- `note = d1`. -/
def noteOf (d1 : Data7) : Nat := d1.toNat
/-- `velocity = d2`. -/
def velocityOf (d2 : Data7) : Nat := d2.toNat
/-- `controller = d1`. -/
def controllerOf (d1 : Data7) : Nat := d1.toNat
/-- `value = d2`. -/
def valueOf (d2 : Data7) : Nat := d2.toNat
/-- `bend14 = d1 + 128·d2`. -/
def bend14 (d1 d2 : Data7) : Nat := d1.toNat + 128 * d2.toNat
/-- `bendSigned = bend14 - 8192`. -/
def bendSigned (d1 d2 : Data7) : Int := (bend14 d1 d2 : Int) - K.bendCenter

/-! ## Parameters (10_state.md R70) -/

/-- P0. -/
def State.envAttackPct (s : State) : F32 := s.param 0
/-- P1. -/
def State.envDecayPct (s : State) : F32 := s.param 1
/-- P2. -/
def State.envSustainPct (s : State) : F32 := s.param 2
/-- P3. -/
def State.envReleasePct (s : State) : F32 := s.param 3
/-- P4. -/
def State.oscTuneSemis (s : State) : F32 := s.param 4
/-- P5. -/
def State.oscFineCents (s : State) : F32 := s.param 5
/-- P6. -/
def State.oscMix (s : State) : F32 := s.param 6
/-- P7. -/
def State.tuningCents (s : State) : F32 := s.param 7
/-- P8. -/
def State.lfoRate (s : State) : F32 := s.param 8
/-- P9. -/
def State.vibratoDepth (s : State) : F32 := s.param 9
/-- P10. -/
def State.filterLfoDepth (s : State) : F32 := s.param 10
/-- P11. -/
def State.filterCutoff (s : State) : F32 := s.param 11
/-- P12. -/
def State.filterQ (s : State) : F32 := s.param 12
/-- P13. -/
def State.noiseMix (s : State) : F32 := s.param 13
/-- P14. -/
def State.volumeTrim (s : State) : F32 := s.param 14
/-- P15. -/
def State.outputLevel (s : State) : F32 := s.param 15
/-- `P16 = 1.0` (46_host_render.md R391). P18 is read by no rule (45_engine_midi.md R343). -/
def State.isPoly (s : State) : Bool := (s.param 16).eq K.one
/-- `P17 = 1.0` (45_engine_midi.md R342). -/
def State.ignoresVelocity (s : State) : Bool := (s.param 17).eq K.one
/-- `P19 = 1.0`: SQUARE mode (45_engine_midi.md R341). -/
def State.isSquare (s : State) : Bool := (s.param 19).eq K.one

/-- `detuneEff`: exactly 1.0 in SQUARE mode, else `detune` (45_engine_midi.md R337). -/
def State.detuneEff (s : State) : F32 := if s.isSquare then K.one else s.derived.detune

/-- The parameter register of an id, for the ids that name one (20_memory.md R107). -/
def paramIndex (id : Int) : Option (Fin 20) :=
  if h : 0 ≤ id ∧ id < 20 then some ⟨id.toNat, by omega⟩ else none

end Sys2Proof.Machine
end

