-- ==== Sys2Proof/Machine/Flags.lean ====
section
/-! DEFINITION. The status predicates (10_state.md R66; there is no flags register) and the checks that refuse a
command (60_exceptions.md R402, R407) or silence a channel (46_host_render.md R379). -/

namespace Sys2Proof.Machine

/-! ## Envelope status -/

/-- `isActive()`: `level > SILENCE` (42_envelope.md R266). -/
def Env.isActive (e : Env) : Bool := e.level.gt K.silence

/-- `isInAttack()`: `target ≥ 2.0` (42_envelope.md R267). -/
def Env.isInAttack (e : Env) : Bool := e.target.ge K.two

/-! ## Oscillator status -/

/-- An effective half period below 3 samples: the condition of PERIOD_LOW (40_oscillator.md R204). -/
def halfPeriodLow (h : F32) : Bool := h.lt K.three

/-! ## Derivation after the first ALLOC -/

/-- "After the first `ALLOC`" (46_host_render.md R390): the block is allocated, or a DEALLOC has come after an ALLOC, which
left its sample rate in the register that is 0.0 (unset) until then (10_state.md R60; assumption 22). -/
def State.hasBeenAllocated (s : State) : Bool := s.engine.allocated || !s.engine.sampleRate.eq K.zero

/-! ## Refusal checks -/

/-- The operands ALLOC refuses (46_host_render.md R371). -/
def allocOperandsBad (sampleRate : F32) (blockSize : Int) : Bool :=
  sampleRate.isNaN || sampleRate.lt K.sampleRateMin || sampleRate.gt K.sampleRateMax || decide (blockSize < 1)

/-- A value outside a parameter's legal range, or NaN (46_host_render.md R389, 10_state.md R70). -/
def paramValueBad (i : Fin 20) (x : F32) : Bool :=
  x.isNaN || x.lt (K.paramTable[i]).lo || x.gt (K.paramTable[i]).hi

/-- A switch parameter written with neither 0.0 nor 1.0 (46_host_render.md R389); -0.0 compares equal to 0.0 (assumption
17). -/
def switchValueBad (i : Fin 20) (x : F32) : Bool :=
  (K.paramTable[i]).isSwitch && !(x.eq K.zero || x.eq K.one)

/-! ## Output word checks (46_host_render.md R379) -/

/-- A word that silences its channel: NaN, infinite or outside [-2, 2]. -/
def wordIsCatastrophic (x : F32) : Bool := x.isNaN || x.isInf || x.lt K.minusTwo || x.gt K.two

end Sys2Proof.Machine
end

