-- ==== Sys2Proof/Machine/Envelope.lean ====
section
/-! DEFINITION. The ADSR envelope (42_envelope.md). -/

namespace Sys2Proof.Machine

/-- `attack()` (42_envelope.md R261). -/
def Env.attack (e : Env) : Env :=
  { e with level := e.level.add (K.silence.add K.silence), target := K.two, multiplier := e.attackMultiplier }

/-- The level after the one-pole step (42_envelope.md R262, first line). -/
def Env.stepLevel (e : Env) : F32 := (e.multiplier.mul (e.level.sub e.target)).add e.target

/-- The registers after `nextValue()` (42_envelope.md R262); the returned value is the new level. -/
def Env.nextValue (e : Env) : Env :=
  let level := e.stepLevel
  if (level.add e.target).gt K.three then
    { e with level := level, multiplier := e.decayMultiplier, target := e.sustainLevel }
  else { e with level := level }

/-- `release()` (42_envelope.md R264). -/
def Env.release (e : Env) : Env := { e with target := K.zero, multiplier := e.releaseMultiplier }

/-- `envReset()` (42_envelope.md R268). -/
def Env.envReset (e : Env) : Env := { e with level := K.zero, target := K.zero, multiplier := K.zero }

/-- `expTc(p, sr)` (42_envelope.md R284). -/
def expTc (p sr : F32) : F32 :=
  (((K.one.div sr).neg).mul ((K.fiveHalf.sub (K.expTcSlope.mul p)).exp)).exp

/-! ## Meanings -/

/-- `attack` of a voice's envelope (42_envelope.md R261). -/
def execAttack (v : VoiceIdx) (s : State) : Host.Outcome State Fault Refusal :=
  .next (s.updEnv v Env.attack)

/-- `nextValue` of a voice's envelope (42_envelope.md R262). -/
def execNextValue (v : VoiceIdx) (s : State) : Host.Outcome State Fault Refusal :=
  .next ((s.updEnv v Env.nextValue).setRet (.word (s.voice v).env.stepLevel))

/-- `release` of a voice's envelope (42_envelope.md R264). -/
def execRelease (v : VoiceIdx) (s : State) : Host.Outcome State Fault Refusal :=
  .next (s.updEnv v Env.release)

/-- `isActive` of a voice's envelope (42_envelope.md R266): writes no register. -/
def execIsActive (v : VoiceIdx) (s : State) : Host.Outcome State Fault Refusal :=
  .next (s.setRet (.flag (s.voice v).env.isActive))

/-- `isInAttack` of a voice's envelope (42_envelope.md R267): writes no register. -/
def execIsInAttack (v : VoiceIdx) (s : State) : Host.Outcome State Fault Refusal :=
  .next (s.setRet (.flag (s.voice v).env.isInAttack))

/-- `envReset` of a voice's envelope (42_envelope.md R268). -/
def execEnvReset (v : VoiceIdx) (s : State) : Host.Outcome State Fault Refusal :=
  .next (s.updEnv v Env.envReset)

end Sys2Proof.Machine
end

