-- ==== Sys2Proof/Machine/FilterUnit.lean ====
section
/-! DEFINITION. The state-variable filter (41_filter.md). -/

namespace Sys2Proof.Machine

/-- `updateCoefficients(cutoff, Q)` (41_filter.md R241): the integrators are kept. -/
def Filter.updateCoefficients (f : Filter) (sampleRate cutoff q : F32) : Filter :=
  let g := ((K.pi.mul cutoff).div sampleRate).tan
  let k := K.one.div q
  let a1 := K.one.div (K.one.add (g.mul (g.add k)))
  let a2 := g.mul a1
  let a3 := g.mul a2
  { f with g := g, k := k, a1 := a1, a2 := a2, a3 := a3 }

/-- What one call of the filter gives: the registers and the low-pass output. -/
structure FilterStep where
  filter : Filter
  out : F32
  deriving DecidableEq, Repr

/-- `filterRender(x)` (41_filter.md R242), with the Cytomic line `v3 = x ⊖ ic2eq` (90_conflicts.md C1). -/
def Filter.filterRender (f : Filter) (x : F32) : FilterStep :=
  let v3 := x.sub f.ic2eq
  let v1 := (f.a1.mul f.ic1eq).add (f.a2.mul v3)
  let v2 := (f.ic2eq.add (f.a2.mul f.ic1eq)).add (f.a3.mul v3)
  { filter := { f with ic1eq := (K.two.mul v1).sub f.ic1eq, ic2eq := (K.two.mul v2).sub f.ic2eq }, out := v2 }

/-- `filterReset()` (41_filter.md R243): all seven registers 0.0. -/
def Filter.filterReset (_ : Filter) : Filter :=
  { g := K.zero, k := K.zero, a1 := K.zero, a2 := K.zero, a3 := K.zero, ic1eq := K.zero, ic2eq := K.zero }

/-- `cutoffEff` (41_filter.md R246). -/
def State.cutoffEff (s : State) : F32 :=
  (s.filterCutoff.mul s.lfo.filt).clamp K.thirty s.derived.cutoffMax

/-- `applyCutoff` on a voice (41_filter.md R246). -/
def State.applyCutoff (s : State) (x : Voice) : Voice :=
  x.setFilter (x.filter.updateCoefficients s.engine.sampleRate s.cutoffEff s.filterQ)

/-! ## Meanings -/

/-- `updateCoefficients` of a voice's filter (41_filter.md R241). -/
def execUpdateCoefficients (v : VoiceIdx) (cutoff q : F32) (s : State) : Host.Outcome State Fault Refusal :=
  .next (s.updFilter v fun f => f.updateCoefficients s.engine.sampleRate cutoff q)

/-- `filterRender` of a voice's filter (41_filter.md R242). -/
def execFilterRender (v : VoiceIdx) (x : F32) (s : State) : Host.Outcome State Fault Refusal :=
  let r := (s.voice v).filter.filterRender x
  .next ((s.updFilter v fun _ => r.filter).setRet (.word r.out))

/-- `filterReset` of a voice's filter (41_filter.md R243). -/
def execFilterReset (v : VoiceIdx) (s : State) : Host.Outcome State Fault Refusal :=
  .next (s.updFilter v Filter.filterReset)

end Sys2Proof.Machine
end

