-- ==== Sys2Proof/Machine/Oscillator.lean ====
section
/-! DEFINITION. The BLIT oscillator (40_oscillator.md). -/

namespace Sys2Proof.Machine

/-- `oscReset()` (40_oscillator.md R201): the inputs are kept. -/
def Osc.oscReset (o : Osc) : Osc :=
  { o with
    phase := K.zero, inc := K.zero, phaseMax := K.zero, dc := K.zero,
    sin0 := K.zero, sin1 := K.zero, dsin := K.zero, saw := K.zero, polarity := K.one }

/-- `H`, the effective half period in samples (40_oscillator.md R202). -/
def Osc.halfPeriod (o : Osc) : F32 := (o.period.div K.two).mul o.modulation

/-- `pm`: the half period rounded to an integer, minus 1/2 (40_oscillator.md R202). -/
def Osc.cycleHalfInteger (o : Osc) : F32 := ((K.half.add o.halfPeriod).floor).sub K.half

/-- The cycle constants `dc`, `phaseMax` and `inc` (40_oscillator.md R202). For `0 < H < 0.5` they are R202's formula as
everywhere: `pm = -0.5`, `phaseMax` negative and `inc` negative, where R211's remark on that case calls `inc` "positive or
infinite" (DEDUCED, unsafe, assumption 24). -/
def Osc.cycleConstants (o : Osc) : Osc :=
  let pm := o.cycleHalfInteger
  let phaseMax := pm.mul K.pi
  { o with dc := (K.half.mul o.amplitude).div pm, phaseMax := phaseMax, inc := phaseMax.div o.halfPeriod }

/-- What one call of an oscillator gives: the registers, the sample, and whether PERIOD_LOW is raised. -/
structure OscStep where
  osc : Osc
  out : F32
  low : Bool
  deriving DecidableEq, Repr

/-- A new impulse cycle begins (40_oscillator.md R203, upper branch, R204, R205); `o` has its phase advanced. -/
def Osc.beginCycle (o : Osc) : OscStep :=
  let c := o.cycleConstants
  let phase := c.phase.neg
  let sin0 := c.amplitude.mul phase.sin
  let sin1 := c.amplitude.mul (phase.sub c.inc).sin
  let dsin := K.two.mul c.inc.cos
  let out := if (phase.mul phase).gtPhaseEps then sin0.div phase else c.amplitude
  { osc := { c with phase := phase, sin0 := sin0, sin1 := sin1, dsin := dsin },
    out := out.sub c.dc, low := halfPeriodLow o.halfPeriod }

/-- Mirror the phase at the top of the cycle (40_oscillator.md R203, R206). -/
def Osc.reflect (o : Osc) : Osc :=
  if o.phase.gt o.phaseMax then
    { o with phase := (o.phaseMax.add o.phaseMax).sub o.phase, inc := o.inc.neg }
  else o

/-- A sample inside a cycle (40_oscillator.md R203, lower branch); `o` has its phase advanced. -/
def Osc.insideCycle (o : Osc) : OscStep :=
  let r := o.reflect
  let sinp := (r.dsin.mul r.sin0).sub r.sin1
  { osc := { r with sin1 := r.sin0, sin0 := sinp }, out := (sinp.div r.phase).sub r.dc, low := false }

/-- Advance the phase by the increment (40_oscillator.md R203, first line). -/
def Osc.advance (o : Osc) : Osc := { o with phase := o.phase.add o.inc }

/-- `nextSample()`, the raw impulse train (40_oscillator.md R203). -/
def Osc.nextSample (o : Osc) : OscStep :=
  if o.advance.phase.le K.piOver4 then o.advance.beginCycle else o.advance.insideCycle

/-- `oscRender()`, the leaky integral (40_oscillator.md R207). -/
def Osc.oscRender (o : Osc) : OscStep :=
  let n := o.nextSample
  let x := if n.osc.polarity.lt K.zero then n.out.neg else n.out
  let saw := (n.osc.saw.mul K.leak).add x
  { osc := { n.osc with saw := saw }, out := saw, low := n.low }

/-- The phase and the increment `squareWave` starts from (40_oscillator.md R209): `other` rising, falling, or
never started. -/
def Osc.lockPhase (other : Osc) : F32 × F32 :=
  if other.inc.gt K.zero then ((other.phaseMax.add other.phaseMax).sub other.phase, other.inc.neg)
  else if other.inc.lt K.zero then (other.phase, other.inc)
  else (K.pi.neg, K.pi)

/-- `squareWave(other, newPeriod)` (40_oscillator.md R209). -/
def Osc.squareWave (o other : Osc) (newPeriod : F32) : Osc :=
  let start := other.lockPhase
  let phase := start.1.add ((K.pi.mul newPeriod).div K.two)
  { o.oscReset with phase := phase, inc := start.2, phaseMax := phase, polarity := K.minusOne }

/-! ## Meanings -/

/-- `oscReset` of one oscillator (40_oscillator.md R201). -/
def execOscReset (v : VoiceIdx) (o : OscId) (s : State) : Host.Outcome State Fault Refusal :=
  .next (s.updOsc v o Osc.oscReset)

/-- Store what an oscillator's call gave: its registers, the sticky flag, the returned sample. -/
def State.putOscStep (s : State) (v : VoiceIdx) (o : OscId) (r : OscStep) : State :=
  ((s.updOsc v o fun _ => r.osc).raisePeriodLow r.low).setRet (.word r.out)

/-- `nextSample` of one oscillator (40_oscillator.md R203). -/
def execNextSample (v : VoiceIdx) (o : OscId) (s : State) : Host.Outcome State Fault Refusal :=
  .next (s.putOscStep v o ((s.voice v).osc o).nextSample)

/-- `oscRender` of one oscillator (40_oscillator.md R207). -/
def execOscRender (v : VoiceIdx) (o : OscId) (s : State) : Host.Outcome State Fault Refusal :=
  .next (s.putOscStep v o ((s.voice v).osc o).oscRender)

/-- `voice[v].osc2.squareWave(voice[v].osc1, newPeriod)` (40_oscillator.md R209). -/
def execSquareWave (v : VoiceIdx) (newPeriod : F32) (s : State) : Host.Outcome State Fault Refusal :=
  .next (s.updOsc v .osc2 fun o => o.squareWave (s.voice v).osc1 newPeriod)

end Sys2Proof.Machine
end

