-- ==== Sys2Proof/Machine/VoiceUnit.lean ====
section
/-! DEFINITION. The voice (44_voice.md) and its period refresh (45_engine_midi.md R340). -/

namespace Sys2Proof.Machine

/-- What one call of a voice gives: its registers, the sample, and whether PERIOD_LOW is raised. -/
structure VoiceStep where
  voice : Voice
  out : F32
  low : Bool
  deriving DecidableEq, Repr

/-- `voiceRender(x_in)` (44_voice.md R311): osc1, osc2, filter, envelope, in this order. -/
def Voice.voiceRender (x : Voice) (xIn : F32) : VoiceStep :=
  let o1 := x.osc1.oscRender
  let o2 := x.osc2.oscRender
  let f := x.filter.filterRender ((o1.out.add o2.out).add xIn)
  { voice := { x with osc1 := o1.osc, osc2 := o2.osc, filter := f.filter, env := x.env.nextValue },
    out := f.out.mul x.env.stepLevel, low := o1.low || o2.low }

/-- `p` of 44_voice.md R312: the pan position of a note, saturated at ±1. -/
def panPosition (note : Int) : F32 :=
  ((F32.ofInt (note - 60)).div K.twentyFour).clamp K.minusOne K.one

/-- `voiceUpdate()` (44_voice.md R312). -/
def Voice.voiceUpdate (x : Voice) : Voice :=
  let p := panPosition x.note
  { x with panLeft := (K.piOver4.mul (K.one.sub p)).sin, panRight := (K.piOver4.mul (K.one.add p)).sin }

/-- `voiceNoteOff()` (44_voice.md R313). -/
def Voice.voiceNoteOff (x : Voice) : Voice := x.setEnv x.env.release

/-- `voiceReset()` (44_voice.md R315): `period` and the oscillators' inputs are kept. -/
def Voice.voiceReset (x : Voice) : Voice :=
  { x with
    note := 0, velocity := 0, osc1 := x.osc1.oscReset, osc2 := x.osc2.oscReset, env := x.env.envReset,
    filter := x.filter.filterReset, panLeft := K.panCenter, panRight := K.panCenter }

/-- `refreshPeriods` on a voice (45_engine_midi.md R340). -/
def State.refreshVoice (s : State) (x : Voice) : Voice :=
  let p1 := x.period.mul s.engine.pitchBend
  { x with osc1 := { x.osc1 with period := p1 }, osc2 := { x.osc2 with period := p1.mul s.detuneEff } }

/-! ## Meanings -/

/-- `voiceRender` of a voice (44_voice.md R311). -/
def execVoiceRender (v : VoiceIdx) (xIn : F32) (s : State) : Host.Outcome State Fault Refusal :=
  let r := (s.voice v).voiceRender xIn
  .next (((s.setVoice v r.voice).raisePeriodLow r.low).setRet (.word r.out))

/-- `voiceUpdate` of a voice (44_voice.md R312). -/
def execVoiceUpdate (v : VoiceIdx) (s : State) : Host.Outcome State Fault Refusal :=
  .next (s.setVoice v (s.voice v).voiceUpdate)

/-- `voiceNoteOff` of a voice (44_voice.md R313). -/
def execVoiceNoteOff (v : VoiceIdx) (s : State) : Host.Outcome State Fault Refusal :=
  .next (s.setVoice v (s.voice v).voiceNoteOff)

/-- `voiceReset` of a voice (44_voice.md R315). -/
def execVoiceReset (v : VoiceIdx) (s : State) : Host.Outcome State Fault Refusal :=
  .next (s.setVoice v (s.voice v).voiceReset)

/-- `refreshPeriods(v)` (45_engine_midi.md R340). -/
def execRefreshPeriods (v : VoiceIdx) (s : State) : Host.Outcome State Fault Refusal :=
  .next (s.setVoice v (s.refreshVoice (s.voice v)))

end Sys2Proof.Machine
end

