-- ==== Sys2Proof/Machine/LfoNoise.lean ====
section
/-! DEFINITION. The LFO and the noise generator (43_lfo_noise.md). -/

namespace Sys2Proof.Machine

/-- The LFO's phase at a tick: advanced, wrapped once above PI (43_lfo_noise.md R291). -/
def State.lfoNextPhase (s : State) : F32 :=
  let p := s.lfo.phase.add s.derived.lfoInc
  if p.gt K.pi then p.sub K.twoPi else p

/-- The LFO's registers at a tick (43_lfo_noise.md R291). -/
def State.lfoTicked (s : State) : Lfo :=
  let phase := s.lfoNextPhase
  let sn := phase.sin
  { step := Config.lfoMax, phase := phase, vib := K.one.add (sn.mul s.vibratoDepth),
    filt := K.one.add (sn.mul s.filterLfoDepth) }

/-- What a tick does to an active voice (43_lfo_noise.md R291); `s` holds the ticked LFO. -/
def State.tickVoice (s : State) (x : Voice) : Voice :=
  if x.env.isActive then
    s.applyCutoff (s.refreshVoice
      { x with osc1 := { x.osc1 with modulation := s.lfo.vib }, osc2 := { x.osc2 with modulation := s.lfo.vib } })
  else x

/-- `lfoTick()` (43_lfo_noise.md R291). -/
def State.lfoTick (s : State) : State :=
  if s.lfo.step - 1 ≤ 0 then
    let t := s.setLfo s.lfoTicked
    t.mapVoices fun _ x => t.tickVoice x
  else s.setLfo { s.lfo with step := s.lfo.step - 1 }

/-- The seed's successor (43_lfo_noise.md R296). -/
def lcgNext (seed : Word32) : Word32 := seed * K.lcgMultiplier + K.lcgIncrement

/-- The sample of a seed: `t = (seed >> 7) - 2^24`, divided by 2^24 (43_lfo_noise.md R296). -/
def noiseSample (seed : Word32) : F32 :=
  (F32.ofInt ((seed >>> 7).toNat - 16777216)).div K.noiseScale

/-- The state after `noiseNext()` (43_lfo_noise.md R296); the returned value is `noiseSample` of the new seed. -/
def State.noiseNext (s : State) : State := s.setSeed (lcgNext s.seed)

/-! ## Meanings -/

/-- `lfoTick` (43_lfo_noise.md R291). -/
def execLfoTick (s : State) : Host.Outcome State Fault Refusal := .next s.lfoTick

/-- `noiseNext` (43_lfo_noise.md R296). -/
def execNoiseNext (s : State) : Host.Outcome State Fault Refusal :=
  .next (s.noiseNext.setRet (.word (noiseSample s.noiseNext.seed)))

end Sys2Proof.Machine
end

