-- ==== Sys2Proof/Machine/Engine.lean ====
section
/-! DEFINITION. The voice allocator and the internal engine operations (45_engine_midi.md R336-R347). -/

namespace Sys2Proof.Machine

/-! ## Voice search (45_engine_midi.md R336) -/

/-- One step of the scan: the best slot so far and its level, against slot `i`. -/
def State.searchStep (s : State) (best : VoiceIdx × F32) (i : VoiceIdx) : VoiceIdx × F32 :=
  if (s.voice i).env.level.lt best.2 && !(s.voice i).env.isInAttack then (i, (s.voice i).env.level) else best

/-- `findFreeVoice()`. -/
def State.findFreeVoice (s : State) : VoiceIdx := (voiceOrder.foldl s.searchStep (0, K.searchStart)).1

/-! ## Pitch (45_engine_midi.md R339) -/

/-- `x`: the note with the analog drift and the tuning, in semitones. -/
def State.pitch (s : State) (v : VoiceIdx) (note : Nat) : F32 :=
  ((F32.ofInt note).add (K.analog.mul (F32.ofInt v.val))).add (K.cent.mul s.tuningCents)

/-- The period before doubling. -/
def State.basePeriod (s : State) (v : VoiceIdx) (note : Nat) : F32 :=
  s.derived.tuneBase.mul ((K.ln2Over12.neg.mul (s.pitch v note)).exp)

/-- The loop's condition: the period, or the secondary's, is below 6 samples. -/
def periodTooShort (detuneEff period : F32) : Bool :=
  period.lt K.six || (period.mul detuneEff).lt K.six

/-- The doubling loop; `none` when it has not ended after `fuel` doublings, which means that it never ends
(assumption 9). -/
def doublePeriod (detuneEff : F32) : Nat → F32 → Option F32
  | 0, period => if periodTooShort detuneEff period then none else some period
  | fuel + 1, period =>
    if periodTooShort detuneEff period then doublePeriod detuneEff fuel (period.add period) else some period

/-- `calcPeriod(v, note)`. -/
def State.calcPeriod (s : State) (v : VoiceIdx) (note : Nat) : Option F32 :=
  doublePeriod s.detuneEff Config.doublingFuel (s.basePeriod v note)

/-! ## Voice start (45_engine_midi.md R341) -/

/-- The velocity's gain, `(0.004 ⊗ float((velocity + 64) · (velocity + 64))) ⊖ 8.0`. The literal is the binary32 value
nearest 0.004, as R13 and the decision D2 say. The spec's printed examples follow the exact product instead, so the gains
and amplitudes of R341 and S11 for velocities 1, 100 and 127, R311's outputs (V-VOICE-3) and the output words of PR1 to PR9
differ from the model's in the last places (DEDUCED, unsafe, assumption 16). -/
def velocityGain (velocity : Nat) : F32 :=
  (K.fourThousandths.mul (F32.ofInt ((velocity + 64) * (velocity + 64) : Nat))).sub K.eight

/-- The slot's own registers, its pan and its oscillators' inputs: the first nine lines of R341, up to the
period refresh. -/
def State.loadVoice (s : State) (x : Voice) (period : F32) (note velocity : Nat) : Voice :=
  let y := { x with period := period, note := (note : Int), velocity := velocity }.voiceUpdate
  let a1 := s.volumeTrim.mul (velocityGain velocity)
  s.refreshVoice
    { y with
      osc1 := { y.osc1 with amplitude := a1, modulation := s.lfo.vib },
      osc2 := { y.osc2 with amplitude := a1.mul s.oscMix, modulation := s.lfo.vib } }

/-- The square lock in SQUARE mode, else polarity +1 (R341). -/
def State.lockVoice (s : State) (x : Voice) : Voice :=
  if s.isSquare then { x with osc2 := x.osc2.squareWave x.osc1 x.period }
  else { x with osc2 := { x.osc2 with polarity := K.one } }

/-- The envelope loaded with the engine's coefficients, and its attack (R341, last five lines). -/
def State.loadEnvelope (s : State) (e : Env) : Env :=
  Env.attack
    { e with
      attackMultiplier := s.derived.envAttack, decayMultiplier := s.derived.envDecay,
      sustainLevel := s.derived.envSustain, releaseMultiplier := s.derived.envRelease }

/-- A voice started with the period that `calcPeriod` gave (R341). -/
def State.startedVoice (s : State) (x : Voice) (period : F32) (note velocity : Nat) : Voice :=
  let y := s.applyCutoff (s.lockVoice (s.loadVoice x period note velocity))
  y.setEnv (s.loadEnvelope y.env)

/-- `startVoice(v, note, velocity)` (R341); a fault where the doubling loop never ends. -/
def State.startVoice (s : State) (v : VoiceIdx) (note velocity : Nat) : Host.Outcome State Fault Refusal :=
  match s.calcPeriod v note with
  | none => .fault .periodLoopDiverges
  | some period => .next (s.setVoice v (s.startedVoice (s.voice v) period note velocity))

/-! ## Note on and off (45_engine_midi.md R342, R344) -/

/-- The velocity a note-on uses (R342). -/
def State.usedVelocity (s : State) (velocity : Nat) : Nat :=
  if s.ignoresVelocity then K.ignoredVelocity else velocity

/-- The slot a note-on starts: voice 0 in mono mode, else the search's (R342, R348). -/
def State.noteOnVoice (s : State) : VoiceIdx := if s.engine.numVoices = 1 then 0 else s.findFreeVoice

/-- `noteOn(note, velocity)` (R342). -/
def State.noteOn (s : State) (note velocity : Nat) : Host.Outcome State Fault Refusal :=
  s.startVoice s.noteOnVoice note (s.usedVelocity velocity)

/-- What a note-off does to a voice (R344). -/
def noteOffVoice (pedal : Bool) (note : Int) (x : Voice) : Voice :=
  if x.note = note then
    if pedal then x.setNote Config.sustain else x.voiceNoteOff.setNote 0
  else x

/-- `noteOff(note)` (R344): every slot is examined. -/
def State.noteOff (s : State) (note : Int) : State :=
  s.mapVoices fun _ x => noteOffVoice s.engine.sustainPedal note x

/-! ## Controllers (45_engine_midi.md R333, R345, R346, R347) -/

/-- `sustainPedalChange(value)` (R345). -/
def State.sustainPedalChange (s : State) (value : Nat) : State :=
  let t := s.setSustainPedal (decide (K.pedalThreshold ≤ value))
  if t.engine.sustainPedal then t else t.noteOff Config.sustain

/-- `panic()` (R346). -/
def State.panic (s : State) : State := (s.mapVoices fun _ x => x.voiceReset).setSustainPedal false

/-- `controlChange(controller, value)` (R333). -/
def State.controlChange (s : State) (controller value : Nat) : State :=
  if controller = K.sustainCc then s.sustainPedalChange value
  else if K.panicCcMin ≤ controller then s.panic
  else s

/-- The pitch-bend multiplier of a bend (R347). -/
def bendRatio (bend : Int) : F32 := ((K.bendCoef.neg).mul (F32.ofInt bend)).exp

/-! ## Meanings -/

/-- `findFreeVoice` (45_engine_midi.md R336): writes no register. -/
def execFindFreeVoice (s : State) : Host.Outcome State Fault Refusal :=
  .next (s.setRet (.voice s.findFreeVoice))

/-- `calcPeriod` (45_engine_midi.md R339): writes no register. -/
def execCalcPeriod (v : VoiceIdx) (note : Nat) (s : State) : Host.Outcome State Fault Refusal :=
  match s.calcPeriod v note with
  | none => .fault .periodLoopDiverges
  | some period => .next (s.setRet (.word period))

/-- `startVoice` (45_engine_midi.md R341). -/
def execStartVoice (v : VoiceIdx) (note velocity : Nat) (s : State) : Host.Outcome State Fault Refusal :=
  s.startVoice v note velocity

/-- `noteOn` (45_engine_midi.md R342). -/
def execNoteOn (note velocity : Nat) (s : State) : Host.Outcome State Fault Refusal := s.noteOn note velocity

/-- `noteOff` (45_engine_midi.md R344). -/
def execNoteOff (note : Int) (s : State) : Host.Outcome State Fault Refusal := .next (s.noteOff note)

/-- `controlChange` (45_engine_midi.md R333). -/
def execControlChange (controller value : Nat) (s : State) : Host.Outcome State Fault Refusal :=
  .next (s.controlChange controller value)

/-- `sustainPedalChange` (45_engine_midi.md R345). -/
def execSustainPedalChange (value : Nat) (s : State) : Host.Outcome State Fault Refusal :=
  .next (s.sustainPedalChange value)

/-- `panic` (45_engine_midi.md R346). -/
def execPanic (s : State) : Host.Outcome State Fault Refusal := .next s.panic

/-- `setPitchBend` (45_engine_midi.md R347). -/
def execSetPitchBend (bend : Int) (s : State) : Host.Outcome State Fault Refusal :=
  .next (s.setPitchBend (bendRatio bend))

end Sys2Proof.Machine
end

