-- ==== Sys2Proof/Machine/HostCalls.lean ====
section
/-! DEFINITION. The host calls, the render loop with its mixer, the reclaim step, the safety clamp and the
derivation of the coefficients (46_host_render.md). -/

namespace Sys2Proof.Machine

/-! ## Derivation (46_host_render.md R390) -/

/-- `lfoHz` (43_lfo_noise.md R290). -/
def lfoHz (rate : F32) : F32 := ((K.seven.mul rate).sub K.four).exp

/-- The derived coefficients of the parameters and the sample rate. -/
def State.deriveCoefficients (s : State) : Derived :=
  let sr := s.engine.sampleRate
  { envAttack := expTc s.envAttackPct sr,
    envDecay := expTc s.envDecayPct sr,
    envSustain := s.envSustainPct.div K.hundred,
    envRelease := if s.envReleasePct.lt K.one then K.fastRelease else expTc s.envReleasePct sr,
    detune := K.detuneBase.pow (s.oscTuneSemis.neg.sub (K.cent.mul s.oscFineCents)),
    tuneBase := sr.div K.fNote0,
    lfoInc := (((lfoHz s.lfoRate).mul K.floatLfoMax).div sr).mul K.twoPi,
    cutoffMax := K.cutoffCap.min (K.nyquistShare.mul sr) }

/-- `numVoices` (46_host_render.md R391). -/
def State.deriveNumVoices (s : State) : Nat := if s.isPoly then 8 else 1

/-- `derive()`. -/
def State.derive (s : State) : State :=
  (s.setDerived s.deriveCoefficients).setEngine { s.engine with numVoices := s.deriveNumVoices }

/-! ## Reclaim and safety clamp (46_host_render.md R376, R379) -/

/-- What the reclaim does to a voice. -/
def reclaimVoice (x : Voice) : Voice :=
  if x.env.isActive then x else (x.setEnv x.env.envReset).setFilter x.filter.filterReset

/-- `reclaim()`. -/
def State.reclaim (s : State) : State := s.mapVoices fun _ x => reclaimVoice x

/-- Silence a channel: `for j in 0..n-1: OutWrite(ch, j, 0.0)`. -/
def Memory.silence (m : Memory) (ch : Channel) : Nat → Memory
  | 0 => m
  | j + 1 => (m.silence ch j).outWrite ch j K.zero

/-- The clamped form of a word in [-2, 2]. -/
def clampWord (x : F32) : F32 := if x.lt K.minusOne then K.minusOne else if x.gt K.one then K.one else x

/-- The clamp's loop over words `i, i+1, …` of a channel of `n` words, `count` of them left. -/
def Memory.clampLoop (m : Memory) (ch : Channel) (n : Nat) : Nat → Nat → Memory
  | _, 0 => m
  | i, count + 1 =>
    match m.outRead ch i with
    | none => m
    | some x =>
      if wordIsCatastrophic x then m.silence ch n
      else if x.lt K.minusOne then (m.outWrite ch i K.minusOne).clampLoop ch n (i + 1) count
      else if x.gt K.one then (m.outWrite ch i K.one).clampLoop ch n (i + 1) count
      else m.clampLoop ch n (i + 1) count

/-- `safetyClamp(ch)` on the output space. -/
def Memory.safetyClamp (m : Memory) (ch : Channel) : Memory :=
  m.clampLoop ch (m.words ch).length 0 (m.words ch).length

/-- `safetyClamp(ch)`. -/
def State.safetyClamp (s : State) (ch : Channel) : State := s.setMemory (s.memory.safetyClamp ch)

/-! ## Render loop and mixer (46_host_render.md R375, R377, R378) -/

/-- The render-start refresh (R377). -/
def State.refreshActive (s : State) : State :=
  s.mapVoices fun _ x => if x.env.isActive then s.refreshVoice x else x

/-- The sums of one sample under way. -/
structure Mix where
  state : State
  l : F32
  r : F32
  deriving DecidableEq, Repr

/-- Render voice `v` into the sums if it is active (R375, R378). -/
def Mix.addVoice (nz : F32) (m : Mix) (v : VoiceIdx) : Mix :=
  let x := m.state.voice v
  if x.env.isActive then
    let o := x.voiceRender nz
    { state := (m.state.setVoice v o.voice).raisePeriodLow o.low,
      l := m.l.add (o.out.mul x.panLeft), r := m.r.add (o.out.mul x.panRight) }
  else m

/-- The voices of one sample, in increasing index, from sums of +0.0. -/
def State.mixVoices (s : State) (nz : F32) : Mix :=
  voiceOrder.foldl (Mix.addVoice nz) { state := s, l := K.zero, r := K.zero }

/-- Sample `i` of a render call: LFO tick, noise, voices, output words (R375). -/
def State.renderSample (s : State) (i : Nat) : State :=
  let t := s.lfoTick.noiseNext
  let m := t.mixVoices ((noiseSample t.seed).mul s.noiseMix)
  m.state.setMemory
    ((m.state.memory.outWrite .left i (m.l.mul s.outputLevel)).outWrite .right i (m.r.mul s.outputLevel))

/-- Samples 0..n-1. -/
def State.renderSamples (s : State) : Nat → State
  | 0 => s
  | n + 1 => (s.renderSamples n).renderSample n

/-- `render(n)` of a ready block (R375). -/
def State.render (s : State) (n : Nat) : State :=
  ((((s.setMemory Memory.empty).refreshActive.renderSamples n).reclaim).safetyClamp .left).safetyClamp .right

/-! ## Meanings of the host calls -/

/-- The state after an accepted `ALLOC` (46_host_render.md R371). -/
def State.hostAlloc (s : State) (sampleRate : F32) (blockSize : Int) : State :=
  (s.setEngine
    { s.engine with
      sampleRate := sampleRate, blockSize := blockSize, allocated := true, ready := false }).derive

/-- `ALLOC` (46_host_render.md R371). -/
def execHostAlloc (sampleRate : F32) (blockSize : Int) (s : State) : Host.Outcome State Fault Refusal :=
  if allocOperandsBad sampleRate blockSize then .next (s.refuse (.alloc sampleRate blockSize))
  else .next (s.hostAlloc sampleRate blockSize)

/-- `DEALLOC` (46_host_render.md R372). -/
def execHostDealloc (s : State) : Host.Outcome State Fault Refusal :=
  .next (s.setEngine { s.engine with allocated := false, ready := false })

/-- The state after an accepted `RESET` (46_host_render.md R373, 70_reset_and_hazards.md R431). -/
def State.hostReset (s : State) : State :=
  (((s.mapVoices fun _ x => x.voiceReset).setSeed K.lcgSeed).setLfo Lfo.powerOn).setEngine
    { s.engine with pitchBend := K.one, sustainPedal := false, ready := true }

/-- `RESET` (46_host_render.md R373). -/
def execHostReset (s : State) : Host.Outcome State Fault Refusal :=
  if s.engine.allocated then .next s.hostReset else .next (s.refuse .reset)

/-- `RENDER` (46_host_render.md R375). -/
def execHostRender (n : Nat) (s : State) : Host.Outcome State Fault Refusal :=
  if s.engine.ready then .next (s.render n) else .next (s.refuse (.render n))

/-- `SETPARAM` (46_host_render.md R389). It derives at every accepted write after the first ALLOC, as R390, R65 and decision
D28 say; R389's "if allocated" is read so after a DEALLOC too (DESIGN CHOICE, assumption 22). -/
def execHostSetParam (id : Int) (value : F32) (s : State) : Host.Outcome State Fault Refusal :=
  match paramIndex id with
  | none => .next (s.refuse (.setParam id value))
  | some i =>
    if paramValueBad i value || switchValueBad i value then .next (s.refuse (.setParam id value))
    else
      let t := s.setParam i value
      .next (if t.hasBeenAllocated then t.derive else t)

/-! ## The boot order (70_reset_and_hazards.md R435) -/

/-- The operands of the boot's ALLOC: those of the block's last ALLOC, or before the first one those of R371's example,
44100 and 512 (DESIGN CHOICE, assumption 3). -/
def State.bootOperands (s : State) : F32 × Int :=
  if allocOperandsBad s.engine.sampleRate s.engine.blockSize then (F32.ofInt 44100, 512)
  else (s.engine.sampleRate, s.engine.blockSize)

/-- The block after the host has issued what R435 asks for before a MIDI message: a ready block as it is, any other one
after an accepted ALLOC and an accepted RESET. -/
def State.booted (s : State) : State :=
  if s.engine.ready then s else (s.hostAlloc s.bootOperands.1 s.bootOperands.2).hostReset

/-! ## Meanings of the internal output operations -/

/-- `reclaim` (46_host_render.md R376). -/
def execReclaim (s : State) : Host.Outcome State Fault Refusal := .next s.reclaim

/-- `safetyClamp` (46_host_render.md R379). -/
def execSafetyClamp (ch : Channel) (s : State) : Host.Outcome State Fault Refusal := .next (s.safetyClamp ch)

/-- `derive` (46_host_render.md R390). -/
def execDerive (s : State) : Host.Outcome State Fault Refusal := .next s.derive

end Sys2Proof.Machine
end

