-- ==== Sys2Proof/Machine/Midi.lean ====
section
/-! DEFINITION. The meanings of the MIDI rows (45_engine_midi.md R330-R335) and of the MIDI host call
(30_encoding.md R130, R131; 46_host_render.md R374). -/

namespace Sys2Proof.Machine

/-- A MIDI command: refused unless `ready` (46_host_render.md R374), else `run`. The bytes are what a refusal
records (assumption 12). -/
def midiCommand (bytes : List Byte) (run : State → Host.Outcome State Fault Refusal) (s : State) :
    Host.Outcome State Fault Refusal :=
  if s.engine.ready then run s else .next (s.refuse (.midi bytes))

/-- A legal command with no effect (45_engine_midi.md R335). -/
def noEffect (s : State) : Host.Outcome State Fault Refusal := .next s

/-! ## The twelve rows -/

/-- `IGN_DATA` (45_engine_midi.md R335; no running status, 30_encoding.md R136). -/
def execMidiIgnData (h : BitVec 3) (c : Nibble) (d1 d2 : Data7) (s : State) :
    Host.Outcome State Fault Refusal :=
  midiCommand (message (0#1 ++ h) c d1 d2) noEffect s

/-- `NOTE_OFF` (45_engine_midi.md R330): the release velocity is ignored. -/
def execMidiNoteOff (c : Nibble) (d1 d2 : Data7) (s : State) : Host.Outcome State Fault Refusal :=
  midiCommand (message 0x8 c d1 d2) (fun t => .next (t.noteOff (noteOf d1))) s

/-- `NOTE_ON_V0` (45_engine_midi.md R332): a note-off. -/
def execMidiNoteOnV0 (c : Nibble) (d1 : Data7) (s : State) : Host.Outcome State Fault Refusal :=
  midiCommand (message 0x9 c d1 0) (fun t => .next (t.noteOff (noteOf d1))) s

/-- `NOTE_ON` (45_engine_midi.md R331). -/
def execMidiNoteOn (c : Nibble) (d1 d2 : Data7) (s : State) : Host.Outcome State Fault Refusal :=
  midiCommand (message 0x9 c d1 d2) (fun t => t.noteOn (noteOf d1) (velocityOf d2)) s

/-- `IGN_POLY_PRESSURE` (45_engine_midi.md R335). -/
def execMidiIgnPolyPressure (c : Nibble) (d1 d2 : Data7) (s : State) : Host.Outcome State Fault Refusal :=
  midiCommand (message 0xA c d1 d2) noEffect s

/-- `CC_SUSTAIN` (45_engine_midi.md R333): controller 0x40. -/
def execMidiCcSustain (c : Nibble) (d2 : Data7) (s : State) : Host.Outcome State Fault Refusal :=
  midiCommand (message 0xB c 0x40 d2) (fun t => .next (t.controlChange (controllerOf 0x40) (valueOf d2))) s

/-- `CC_PANIC` (45_engine_midi.md R333): controllers 0x78 to 0x7F. -/
def execMidiCcPanic (c : Nibble) (k : BitVec 3) (d2 : Data7) (s : State) : Host.Outcome State Fault Refusal :=
  midiCommand (message 0xB c (0xF#4 ++ k) d2)
    (fun t => .next (t.controlChange (controllerOf (0xF#4 ++ k)) (valueOf d2))) s

/-- `CC_OTHER` (45_engine_midi.md R333): any other controller. -/
def execMidiCcOther (c : Nibble) (d1 d2 : Data7) (s : State) : Host.Outcome State Fault Refusal :=
  midiCommand (message 0xB c d1 d2) (fun t => .next (t.controlChange (controllerOf d1) (valueOf d2))) s

/-- `IGN_PROGRAM` (45_engine_midi.md R335). -/
def execMidiIgnProgram (c : Nibble) (d1 d2 : Data7) (s : State) : Host.Outcome State Fault Refusal :=
  midiCommand (message 0xC c d1 d2) noEffect s

/-- `IGN_CHANNEL_PRESSURE` (45_engine_midi.md R335). -/
def execMidiIgnChannelPressure (c : Nibble) (d1 d2 : Data7) (s : State) : Host.Outcome State Fault Refusal :=
  midiCommand (message 0xD c d1 d2) noEffect s

/-- `PITCH_BEND` (45_engine_midi.md R334). -/
def execMidiPitchBend (c : Nibble) (d1 d2 : Data7) (s : State) : Host.Outcome State Fault Refusal :=
  midiCommand (message 0xE c d1 d2) (fun t => .next (t.setPitchBend (bendRatio (bendSigned d1 d2)))) s

/-- `IGN_SYSTEM` (45_engine_midi.md R335). -/
def execMidiIgnSystem (c : Nibble) (d1 d2 : Data7) (s : State) : Host.Outcome State Fault Refusal :=
  midiCommand (message 0xF c d1 d2) noEffect s

/-! ## The host call -/

/-- Run the row of a command word (30_encoding.md R133), with the operands `decodeWord` gives that row. -/
def runWord (w : CmdWord) (s : State) : Host.Outcome State Fault Refusal :=
  match rowOf w with
  | .ignData => execMidiIgnData (BitVec.extractLsb' 20 3 w) w.c w.d1 w.d2 s
  | .noteOff => execMidiNoteOff w.c w.d1 w.d2 s
  | .noteOnV0 => execMidiNoteOnV0 w.c w.d1 s
  | .noteOn => execMidiNoteOn w.c w.d1 w.d2 s
  | .ignPolyPressure => execMidiIgnPolyPressure w.c w.d1 w.d2 s
  | .ccSustain => execMidiCcSustain w.c w.d2 s
  | .ccPanic => execMidiCcPanic w.c (BitVec.extractLsb' 8 3 w) w.d2 s
  | .ccOther => execMidiCcOther w.c w.d1 w.d2 s
  | .ignProgram => execMidiIgnProgram w.c w.d1 w.d2 s
  | .ignChannelPressure => execMidiIgnChannelPressure w.c w.d1 w.d2 s
  | .pitchBend => execMidiPitchBend w.c w.d1 w.d2 s
  | .ignSystem => execMidiIgnSystem w.c w.d1 w.d2 s

/-- `MIDI`: refused unless `ready`; a message of no byte or of more than three is ignored (30_encoding.md R131);
any other runs the row of its command word. -/
def execHostMidi (bytes : List Byte) (s : State) : Host.Outcome State Fault Refusal :=
  midiCommand bytes
    (fun t =>
      match wordOfMessage bytes with
      | .error _ => noEffect t
      | .ok w => runWord w t)
    s

end Sys2Proof.Machine
end

