-- ==== Sys2Proof/Machine/Dispatch.lean ====
section
/-! DEFINITION. The meaning of every instruction: one arm per constructor of Instr. -/

namespace Sys2Proof.Machine

def exec (i : Instr) (s : State) : Host.Outcome State Fault Refusal :=
  match i with
  -- MIDI rows (30_encoding.md R133)
  | .midiIgnData h c d1 d2 => Sys2Proof.Machine.execMidiIgnData h c d1 d2 s
  | .midiNoteOff c d1 d2 => Sys2Proof.Machine.execMidiNoteOff c d1 d2 s
  | .midiNoteOnV0 c d1 => Sys2Proof.Machine.execMidiNoteOnV0 c d1 s
  | .midiNoteOn c d1 d2 => Sys2Proof.Machine.execMidiNoteOn c d1 d2 s
  | .midiIgnPolyPressure c d1 d2 => Sys2Proof.Machine.execMidiIgnPolyPressure c d1 d2 s
  | .midiCcSustain c d2 => Sys2Proof.Machine.execMidiCcSustain c d2 s
  | .midiCcPanic c k d2 => Sys2Proof.Machine.execMidiCcPanic c k d2 s
  | .midiCcOther c d1 d2 => Sys2Proof.Machine.execMidiCcOther c d1 d2 s
  | .midiIgnProgram c d1 d2 => Sys2Proof.Machine.execMidiIgnProgram c d1 d2 s
  | .midiIgnChannelPressure c d1 d2 => Sys2Proof.Machine.execMidiIgnChannelPressure c d1 d2 s
  | .midiPitchBend c d1 d2 => Sys2Proof.Machine.execMidiPitchBend c d1 d2 s
  | .midiIgnSystem c d1 d2 => Sys2Proof.Machine.execMidiIgnSystem c d1 d2 s
  -- host calls (30_encoding.md R140)
  | .hostAlloc sampleRate blockSize => Sys2Proof.Machine.execHostAlloc sampleRate blockSize s
  | .hostDealloc => Sys2Proof.Machine.execHostDealloc s
  | .hostReset => Sys2Proof.Machine.execHostReset s
  | .hostRender n => Sys2Proof.Machine.execHostRender n s
  | .hostSetParam id value => Sys2Proof.Machine.execHostSetParam id value s
  | .hostMidi bytes => Sys2Proof.Machine.execHostMidi bytes s
  -- internal operations (30_encoding.md R142)
  | .oscReset v o => Sys2Proof.Machine.execOscReset v o s
  | .nextSample v o => Sys2Proof.Machine.execNextSample v o s
  | .oscRender v o => Sys2Proof.Machine.execOscRender v o s
  | .squareWave v newPeriod => Sys2Proof.Machine.execSquareWave v newPeriod s
  | .updateCoefficients v cutoff q => Sys2Proof.Machine.execUpdateCoefficients v cutoff q s
  | .filterRender v x => Sys2Proof.Machine.execFilterRender v x s
  | .filterReset v => Sys2Proof.Machine.execFilterReset v s
  | .attack v => Sys2Proof.Machine.execAttack v s
  | .nextValue v => Sys2Proof.Machine.execNextValue v s
  | .release v => Sys2Proof.Machine.execRelease v s
  | .isActive v => Sys2Proof.Machine.execIsActive v s
  | .isInAttack v => Sys2Proof.Machine.execIsInAttack v s
  | .envReset v => Sys2Proof.Machine.execEnvReset v s
  | .lfoTick => Sys2Proof.Machine.execLfoTick s
  | .noiseNext => Sys2Proof.Machine.execNoiseNext s
  | .voiceRender v x => Sys2Proof.Machine.execVoiceRender v x s
  | .voiceUpdate v => Sys2Proof.Machine.execVoiceUpdate v s
  | .voiceNoteOff v => Sys2Proof.Machine.execVoiceNoteOff v s
  | .voiceReset v => Sys2Proof.Machine.execVoiceReset v s
  | .findFreeVoice => Sys2Proof.Machine.execFindFreeVoice s
  | .calcPeriod v note => Sys2Proof.Machine.execCalcPeriod v note s
  | .refreshPeriods v => Sys2Proof.Machine.execRefreshPeriods v s
  | .startVoice v note velocity => Sys2Proof.Machine.execStartVoice v note velocity s
  | .noteOn note velocity => Sys2Proof.Machine.execNoteOn note velocity s
  | .noteOff note => Sys2Proof.Machine.execNoteOff note s
  | .controlChange controller value => Sys2Proof.Machine.execControlChange controller value s
  | .sustainPedalChange value => Sys2Proof.Machine.execSustainPedalChange value s
  | .panic => Sys2Proof.Machine.execPanic s
  | .setPitchBend bend => Sys2Proof.Machine.execSetPitchBend bend s
  | .reclaim => Sys2Proof.Machine.execReclaim s
  | .safetyClamp ch => Sys2Proof.Machine.execSafetyClamp ch s
  | .derive => Sys2Proof.Machine.execDerive s

end Sys2Proof.Machine
end

