-- ==== Sys2Proof/Machine/Step.lean ====
section
/-! DEFINITION. One step of the block: the next command of the host is executed whole (20_memory.md R110). -/

namespace Sys2Proof.Machine

/-- With no command on the port nothing happens (assumption 3); else the next one is taken from the port and
executed to completion. -/
def step (s : State) : Host.Outcome State Fault Refusal :=
  match s.port with
  | [] => .next s
  | c :: rest => exec c.toInstr (s.setPort rest)

/-- The MIDI message of a table row's word put first on the port, where `step` takes its next command, of a block that
executes messages: R374 refuses them undecoded unless the block is ready, so one that is not ready is booted first, as R435
asks of the host. A program is the host's command stream, given from outside (assumption 3). -/
def State.withFetchWord (s : State) (nbits w : Nat) : State :=
  s.booted.setPort (.midi (tableMessage (w % 2 ^ nbits)) :: s.port)

end Sys2Proof.Machine
end

