-- ==== Sys2Proof/Safety.lean ====
section
/-! DEFINITION. What counts as a safe run, and the words the statements use: the records of the spec, the
invariant of the block, the frames of the instructions. -/

namespace Sys2Proof.Safety

open Sys2Proof.Machine

/-! ## Safe states and runs -/

/-- "No flag set" (10_state.md R80, 60_exceptions.md R402): the premise under which the spec vouches for the
block's outputs. -/
def clean (s : State) : Bool := !s.refused && !s.periodLow

/-- A run is safe when it answers a next state: a fault or a refusal of the model ends it. -/
def completes (o : Host.Outcome State Fault Refusal) : Bool :=
  match o with
  | .next _ => true
  | .fault _ => false
  | .refused _ => false

/-- The state an outcome gives, or the given one where it gives none. -/
def stateOr (s : State) (o : Host.Outcome State Fault Refusal) : State :=
  match o with
  | .next t => t
  | .fault _ => s
  | .refused _ => s

/-- The state after an instruction (the state itself where the instruction does not complete). -/
def after (i : Instr) (s : State) : State := stateOr s (exec i s)

/-- The outcome with a function applied to its next state. -/
def mapNext (f : State → State) (o : Host.Outcome State Fault Refusal) : Host.Outcome State Fault Refusal :=
  match o with
  | .next t => .next (f t)
  | .fault r => .fault r
  | .refused r => .refused r

/-- The word the last internal operation returned. -/
def returned (s : State) : F32 :=
  match s.ret with
  | .word x => x
  | .nothing => .nan
  | .flag _ => .nan
  | .voice _ => .nan

/-- Commands executed one after another, each to completion (20_memory.md R110). -/
def runCommands : List Command → State → Host.Outcome State Fault Refusal
  | [], s => .next s
  | c :: cs, s =>
    match exec c.toInstr s with
    | .next t => runCommands cs t
    | .fault f => .fault f
    | .refused r => .refused r

/-! ## Refusals -/

/-- Whether a command is refused in a state (46_host_render.md R371, R373, R374, R375, R389). -/
def refuses (s : State) : Command → Bool
  | .alloc sr bs => sr.isNaN || sr.lt K.sampleRateMin || sr.gt K.sampleRateMax || decide (bs < 1)
  | .dealloc => false
  | .reset => !s.engine.allocated
  | .render _ => !s.engine.ready
  | .setParam id x =>
    match paramIndex id with
    | none => true
    | some i => paramValueBad i x || switchValueBad i x
  | .midi _ => !s.engine.ready

/-! ## The render call as a program over the block's own operations (46_host_render.md R375, R377) -/

/-- Render voice `v` into the sums, if it is active. -/
def mixOne (nz : F32) (m : Mix) (v : VoiceIdx) : Mix :=
  if (m.state.voice v).env.isActive then
    let t := after (.voiceRender v nz) m.state
    { state := t, l := m.l.add ((returned t).mul (t.voice v).panLeft),
      r := m.r.add ((returned t).mul (t.voice v).panRight) }
  else m

/-- Sample `i`: lfoTick, noiseNext, the voices in index order, the two output words. -/
def sampleProgram (i : Nat) (s : State) : State :=
  let t := after .noiseNext (after .lfoTick s)
  let m := voiceOrder.foldl (mixOne ((returned t).mul (t.param 13))) { state := t, l := K.zero, r := K.zero }
  m.state.setMemory
    ((m.state.memory.outWrite .left i (m.l.mul (s.param 15))).outWrite .right i (m.r.mul (s.param 15)))

/-- Samples 0..n-1. -/
def samplesProgram : Nat → State → State
  | 0, s => s
  | n + 1, s => sampleProgram n (samplesProgram n s)

/-- The render-start refresh of one voice, if it is active. -/
def refreshOne (s : State) (v : VoiceIdx) : State :=
  if (s.voice v).env.isActive then after (.refreshPeriods v) s else s

/-- `render(n)` of a ready block. -/
def renderProgram (n : Nat) (s : State) : State :=
  after (.safetyClamp .right) (after (.safetyClamp .left) (after .reclaim
    (samplesProgram n (voiceOrder.foldl refreshOne (s.setMemory Memory.empty)))))

/-! ## Output words -/

/-- Neither NaN nor infinite. -/
def isFinite (x : F32) : Bool := !x.isNaN && !x.isInf

/-- `y` holds `x`'s channel words clamped (46_host_render.md R379): all zero where one of them is NaN, infinite or
outside [-2, 2], else each word limited to [-1, 1]. -/
def ClampedWords (xs ys : List F32) : Prop :=
  (∃ x ∈ xs, x.isNaN = true ∨ x.isInf = true ∨ x.lt K.minusTwo = true ∨ x.gt K.two = true) ∧
      ys = List.replicate xs.length K.zero ∨
    (∀ x ∈ xs, x.isNaN = false ∧ x.isInf = false ∧ x.lt K.minusTwo = false ∧ x.gt K.two = false) ∧
      ys = xs.map fun x => x.clamp K.minusOne K.one

/-! ## The invariant -/

/-- A finite binary32 value in [-1, 1] (46_host_render.md R380). -/
def isUnitWord : F32 → Bool
  | .nan => false
  | .inf _ => false
  | .num _ e f => decide (F32.units e f ≤ 2 ^ 149)

/-- What holds at power-on and after every command. -/
structure Inv (s : State) : Prop where
  /-- Both channels hold the same number of words (20_memory.md R100). -/
  memoryWf : s.memory.wf
  /-- Every output word is finite and in [-1, 1] (46_host_render.md R380). -/
  outputBounded : ∀ ch, ∀ x ∈ s.memory.words ch, isUnitWord x = true
  /-- The LFO step counter is in [0, 32] (10_state.md R50). -/
  lfoStepRange : 0 ≤ s.lfo.step ∧ s.lfo.step ≤ 32
  /-- Every parameter holds a legal value (10_state.md R70). -/
  paramsLegal : ∀ i, paramValueBad i (s.param i) = false ∧ switchValueBad i (s.param i) = false
  /-- A ready block is allocated (46_host_render.md R374). -/
  readyAllocated : s.engine.ready = true → s.engine.allocated = true
  /-- After the first ALLOC the block has a legal sample rate and block size (10_state.md R60). -/
  allocatedLegal : s.hasBeenAllocated = true → allocOperandsBad s.engine.sampleRate s.engine.blockSize = false
  /-- After the first ALLOC the coefficients are those of the parameters (46_host_render.md R389, R390; assumption 22). -/
  derivedCurrent : s.hasBeenAllocated = true → s.derived = s.deriveCoefficients ∧ s.engine.numVoices = s.deriveNumVoices
  /-- `numVoices` is 1 or 8 (10_state.md R60). -/
  numVoicesLegal : s.engine.numVoices = 1 ∨ s.engine.numVoices = 8
  /-- Every slot's note and velocity are legal (10_state.md R31). -/
  notesLegal : ∀ v, -1 ≤ (s.voice v).note ∧ (s.voice v).note ≤ 127 ∧ (s.voice v).velocity ≤ 127
  /-- With the pedal up no slot is marked SUSTAIN: a pedal-up releases every marked one (45_engine_midi.md R345). -/
  sustainReleased : s.engine.sustainPedal = false → ∀ v, (s.voice v).note ≠ -1
  /-- A command is recorded exactly when REFUSED is set (60_exceptions.md R402). -/
  recordKept : s.refused = s.firstRefused.isSome

/-! ## Frames -/

/-- Nothing outside the voices changes: the LFO, the noise seed, the engine registers, the coefficients, the
parameters, the REFUSED record, every output word, the commands to come. -/
structure SameShared (s t : State) : Prop where
  lfo : t.lfo = s.lfo
  seed : t.seed = s.seed
  engine : t.engine = s.engine
  derived : t.derived = s.derived
  params : t.params = s.params
  refused : t.refused = s.refused
  firstRefused : t.firstRefused = s.firstRefused
  words : ∀ ch i, t.memory.outRead ch i = s.memory.outRead ch i
  port : t.port = s.port

/-- Of the voices, only `voice[v]` changes. -/
def SameOtherVoices (v : VoiceIdx) (s t : State) : Prop := ∀ w, w ≠ v → t.voice w = s.voice w

/-- No voice changes. -/
def SameVoices (s t : State) : Prop := ∀ w, t.voice w = s.voice w

/-- Of a voice, only oscillator `o` changes. -/
structure OnlyOsc (o : OscId) (x y : Voice) : Prop where
  note : y.note = x.note
  velocity : y.velocity = x.velocity
  period : y.period = x.period
  otherOsc : ∀ p, p ≠ o → y.osc p = x.osc p
  env : y.env = x.env
  filter : y.filter = x.filter
  panLeft : y.panLeft = x.panLeft
  panRight : y.panRight = x.panRight

/-- Of a voice, only the filter changes. -/
structure OnlyFilter (x y : Voice) : Prop where
  note : y.note = x.note
  velocity : y.velocity = x.velocity
  period : y.period = x.period
  oscs : ∀ o, y.osc o = x.osc o
  env : y.env = x.env
  panLeft : y.panLeft = x.panLeft
  panRight : y.panRight = x.panRight

/-- Of a voice, only the envelope changes. -/
structure OnlyEnv (x y : Voice) : Prop where
  note : y.note = x.note
  velocity : y.velocity = x.velocity
  period : y.period = x.period
  oscs : ∀ o, y.osc o = x.osc o
  filter : y.filter = x.filter
  panLeft : y.panLeft = x.panLeft
  panRight : y.panRight = x.panRight

/-- What an operation of oscillator `o` of voice `v` may change: that oscillator, the PERIOD_LOW record and the
returned value. -/
structure OscFrame (v : VoiceIdx) (o : OscId) (s t : State) : Prop where
  shared : SameShared s t
  others : SameOtherVoices v s t
  voice : OnlyOsc o (s.voice v) (t.voice v)

/-- What an operation of the filter of voice `v` may change: that filter and the returned value. -/
structure FilterFrame (v : VoiceIdx) (s t : State) : Prop where
  shared : SameShared s t
  others : SameOtherVoices v s t
  voice : OnlyFilter (s.voice v) (t.voice v)
  periodLow : t.periodLow = s.periodLow

/-- What an operation of the envelope of voice `v` may change: that envelope and the returned value. -/
structure EnvFrame (v : VoiceIdx) (s t : State) : Prop where
  shared : SameShared s t
  others : SameOtherVoices v s t
  voice : OnlyEnv (s.voice v) (t.voice v)
  periodLow : t.periodLow = s.periodLow

/-- What an operation of voice `v` that raises nothing may change: that voice. -/
structure VoiceFrame (v : VoiceIdx) (s t : State) : Prop where
  shared : SameShared s t
  others : SameOtherVoices v s t
  periodLow : t.periodLow = s.periodLow

/-- What an operation over all voices that raises nothing may change: the voices. -/
structure VoicesFrame (s t : State) : Prop where
  shared : SameShared s t
  periodLow : t.periodLow = s.periodLow

/-! ## Names of the statements -/

/-- A base period doubled `k` times (45_engine_midi.md R339). -/
def doubledTimes (p : F32) : Nat → F32
  | 0 => p
  | k + 1 => (doubledTimes p k).add (doubledTimes p k)

/-- A state in which every note-on's doubling loop ends whatever slot is started: no base period of `note` is
zero or negative, the detune ratio is not negative. -/
def PeriodLoopEnds (s : State) (note : Nat) : Prop :=
  (∀ v, (s.basePeriod v note).le K.zero = false) ∧ s.detuneEff.lt K.zero = false

/-- A voice the search may choose (45_engine_midi.md R336). -/
def Candidate (s : State) (i : VoiceIdx) : Prop :=
  (s.voice i).env.level.lt K.hundred = true ∧ (s.voice i).env.target.ge K.two = false

/-- The same parameters, coefficients and host settings (70_reset_and_hazards.md R431: "the same ALLOC and
parameter writes"). -/
structure SameSettings (s t : State) : Prop where
  params : t.params = s.params
  derived : t.derived = s.derived
  sampleRate : t.engine.sampleRate = s.engine.sampleRate
  blockSize : t.engine.blockSize = s.engine.blockSize
  allocated : t.engine.allocated = s.engine.allocated
  numVoices : t.engine.numVoices = s.engine.numVoices

/-- The finite value of sign `neg`, exponent `e` and fraction `f` is nearest the rational `q` (in units of 2^-149)
among all finite values, and where another is equally near it has the even fraction (00_scope.md R10). -/
def NearestEven (q : ℚ) (neg : Bool) (e : Fin 255) (f : BitVec 23) : Prop :=
  ∀ neg' e' f', |q - F32.signed neg e f| ≤ |q - F32.signed neg' e' f'| ∧
    (|q - F32.signed neg e f| = |q - F32.signed neg' e' f'| → F32.signed neg' e' f' ≠ F32.signed neg e f →
      f.toNat % 2 = 0)

/-- `x` is the rational `q` (in units of 2^-149) rounded to binary32 with sign `neg`: infinite from half a unit in the last
place above the greatest finite value, `(2^24 - 1) · 2^253` units, else the nearest value, ties to even. -/
def RoundedFrom (q : ℚ) (neg : Bool) (x : F32) : Prop :=
  if 2 ^ 277 - 2 ^ 252 ≤ |q| then x = .inf neg else ∃ e f, x = .num neg e f ∧ NearestEven q neg e f

/-- Encoding and then decoding gives the instruction back, where it is well formed. -/
def RoundTrips (i : Instr) : Prop := i.wellFormed = true → ∃ bytes, encode i = some bytes ∧ decode bytes = .ok i

/-- The state with one parameter register replaced. -/
def withParam (i : Fin 20) (x : F32) (s : State) : State := { s with params := s.params.set i x }

end Sys2Proof.Safety
end

