-- ==== Sys2Proof/Certificates/Slice0/Obligations.lean ====
section
/-! DEFINITION. The statements for the provers: what the rules of the spec say, as propositions about the model. Each
docstring names the rule; a convention of the model names its assumption. -/

open Sys2Proof Sys2Proof.Machine Sys2Proof.Safety

/-! ## Numbers (00_scope.md R10-R18) -/

/-- R10: `⊕`, `⊗` and `⊘` on finite operands give the exact result rounded once to nearest, ties to even, infinity on
overflow. Values are counted in units of 2^-149. The sign of a zero sum is the IEEE 754 one. The other operands (infinite,
NaN, a zero divisor) are those of OperatorsFlushAndCompareOrdered. -/
def Obligations.ArithmeticRoundsToNearestEven : Prop :=
  ∀ (s t : Bool) (e e' : Fin 255) (f f' : BitVec 23),
    RoundedFrom (F32.signed s e f + F32.signed t e' f' : ℚ)
        (if F32.signed s e f + F32.signed t e' f' = 0 then s && t
          else decide (F32.signed s e f + F32.signed t e' f' < 0))
        (F32.addExact (.num s e f) (.num t e' f')) ∧
      RoundedFrom ((F32.signed s e f : ℚ) * F32.signed t e' f' / 2 ^ 149) (s ^^ t)
        (F32.mulExact (.num s e f) (.num t e' f')) ∧
      (F32.units e' f' ≠ 0 →
        RoundedFrom ((F32.signed s e f : ℚ) * 2 ^ 149 / F32.signed t e' f') (s ^^ t)
          (F32.divExact (.num s e f) (.num t e' f')))

/-- R11, R18: the operators read their operands flushed and give their results flushed, where flushing is the identity
but for a subnormal under FTZ, which becomes the zero of its sign (`FTZ` has no value in the model, assumption 6). R10:
NaN operands, infinite operands and zero divisors have the IEEE 754 default results, and `-x` flips the sign alone. R11: any
comparison with a NaN operand is false; -0 equals +0; infinities compare as the ends of the line; finite operands that no
flushing touches compare as their exact values do; `clamp` and `min` as R11 writes them. R18: a comparison reads its operands
flushed; R12, R18: so does an F function, whose result is flushed too (F has no value in the model, assumption 5). -/
def Obligations.OperatorsFlushAndCompareOrdered : Prop :=
  (∀ x y : F32, x.add y = (F32.addExact x.flush y.flush).flush ∧ x.sub y = (F32.addExact x.flush y.flush.neg).flush ∧
      x.mul y = (F32.mulExact x.flush y.flush).flush ∧ x.div y = (F32.divExact x.flush y.flush).flush) ∧
    (∀ x : F32,
      x.flush =
        if Config.ftz = true ∧ x.isSubnormal = true then
          match x with
          | .nan => .nan
          | .inf s => .inf s
          | .num s _ _ => .num s 0 0
        else x) ∧
    (∀ x : F32,
      F32.addExact .nan x = .nan ∧ F32.addExact x .nan = .nan ∧ F32.mulExact .nan x = .nan ∧ F32.mulExact x .nan = .nan ∧
        F32.divExact .nan x = .nan ∧ F32.divExact x .nan = .nan) ∧
    (∀ (s t : Bool) (e : Fin 255) (f : BitVec 23),
      F32.addExact (.inf s) (.inf t) = (if s = t then .inf s else .nan) ∧
        F32.addExact (.inf s) (.num t e f) = .inf s ∧ F32.addExact (.num t e f) (.inf s) = .inf s ∧
        F32.mulExact (.inf s) (.inf t) = .inf (s ^^ t) ∧
        F32.mulExact (.inf s) (.num t e f) = (if F32.signed t e f = 0 then .nan else .inf (s ^^ t)) ∧
        F32.mulExact (.num t e f) (.inf s) = (if F32.signed t e f = 0 then .nan else .inf (s ^^ t)) ∧
        F32.divExact (.inf s) (.inf t) = .nan ∧ F32.divExact (.inf s) (.num t e f) = .inf (s ^^ t) ∧
        F32.divExact (.num t e f) (.inf s) = .num (s ^^ t) 0 0 ∧
        F32.divExact (.num t e f) (.num s 0 0) = (if F32.signed t e f = 0 then .nan else .inf (s ^^ t)) ∧
        F32.nan.neg = .nan ∧ (F32.inf s).neg = .inf (!s) ∧ (F32.num t e f).neg = .num (!t) e f) ∧
    (∀ x y : F32, x.isNaN = true ∨ y.isNaN = true →
      x.lt y = false ∧ x.le y = false ∧ x.gt y = false ∧ x.ge y = false ∧ x.eq y = false) ∧
    (F32.zero true).eq (F32.zero false) = true ∧
    (∀ (s t : Bool) (e : Fin 255) (f : BitVec 23),
      (F32.inf s).lt (.inf t) = (s && !t) ∧ (F32.inf s).le (.inf t) = (s || !t) ∧ (F32.inf s).eq (.inf t) = (s == t) ∧
        (F32.inf s).lt (.num t e f) = s ∧ (F32.inf s).le (.num t e f) = s ∧ (F32.inf s).eq (.num t e f) = false ∧
        (F32.num t e f).lt (.inf s) = !s ∧ (F32.num t e f).le (.inf s) = !s ∧ (F32.num t e f).eq (.inf s) = false) ∧
    (∀ x y : F32, x.gt y = y.lt x ∧ x.ge y = y.le x) ∧
    (∀ x y : F32, x.lt y = x.flush.lt y.flush ∧ x.le y = x.flush.le y.flush ∧ x.eq y = x.flush.eq y.flush) ∧
    (∀ x : F32,
      x.sin = (Config.sin x.flush).flush ∧ x.cos = (Config.cos x.flush).flush ∧ x.tan = (Config.tan x.flush).flush ∧
        x.exp = (Config.exp x.flush).flush) ∧
    (∀ x y : F32, x.pow y = (Config.pow x.flush y.flush).flush) ∧
    (∀ (s t : Bool) (e e' : Fin 255) (f f' : BitVec 23),
      (F32.num s e f).flush = .num s e f → (F32.num t e' f').flush = .num t e' f' →
      ((F32.num s e f).lt (.num t e' f') = true ↔ F32.signed s e f < F32.signed t e' f') ∧
        ((F32.num s e f).le (.num t e' f') = true ↔ F32.signed s e f ≤ F32.signed t e' f') ∧
        ((F32.num s e f).gt (.num t e' f') = true ↔ F32.signed s e f > F32.signed t e' f') ∧
        ((F32.num s e f).ge (.num t e' f') = true ↔ F32.signed s e f ≥ F32.signed t e' f') ∧
        ((F32.num s e f).eq (.num t e' f') = true ↔ F32.signed s e f = F32.signed t e' f')) ∧
    (∀ x lo hi : F32, x.clamp lo hi = if x.lt lo then lo else if x.gt hi then hi else x) ∧
    ∀ x y : F32, x.min y = if x.lt y then x else y

/-- R10: `float(i)` is exact for |i| ≤ 2^24; `floor` of a finite value is its exact floor. That a zero floor has the operand's
sign is the model's choice (assumption 23). -/
def Obligations.ConversionsAreExact : Prop :=
  (∀ i : Int, i.natAbs ≤ 2 ^ 24 → ∃ s e f, F32.ofInt i = .num s e f ∧ F32.signed s e f = i * 2 ^ 149) ∧
    ∀ (s : Bool) (e : Fin 255) (f : BitVec 23),
      ∃ e' f', F32.floor (.num s e f) = .num s e' f' ∧
        (F32.signed s e' f' : ℚ) = (⌊(F32.signed s e f : ℚ) / 2 ^ 149⌋ : ℚ) * 2 ^ 149

/-- R13: `PHASE_EPS` is the binary64 value nearest 1e-9: 1e-9 and it lie in [2^-30, 2^-29), where the binary64 values are
the `m · 2^-82`, and no other of these is nearer. R14: no binary32 value equals it, and the forms `>` and `≥` of the
threshold test coincide on every finite value; a NaN is not above it, +infinity is. -/
def Obligations.PhaseThresholdIsNoBinary32Value : Prop :=
  ((2 : Int) ^ 52 * 10 ^ 9 ≤ 2 ^ 82 ∧ (2 : Int) ^ 82 < 2 ^ 53 * 10 ^ 9 ∧
    ∃ n : Nat, F32.phaseEpsUnits = n * 2 ^ 67 ∧ 2 ^ 52 ≤ n ∧ n < 2 ^ 53 ∧
      ∀ m : Nat, |(n : Int) * 10 ^ 9 - 2 ^ 82| ≤ |(m : Int) * 10 ^ 9 - 2 ^ 82|) ∧
    (∀ (s : Bool) (e : Fin 255) (f : BitVec 23),
      F32.signed s e f ≠ (F32.phaseEpsUnits : Int) ∧
        ((F32.num s e f).isSubnormal = false →
          ((F32.num s e f).gtPhaseEps = true ↔ (F32.phaseEpsUnits : Int) < F32.signed s e f) ∧
          ((F32.num s e f).gtPhaseEps = true ↔ (F32.phaseEpsUnits : Int) ≤ F32.signed s e f))) ∧
    F32.nan.gtPhaseEps = false ∧ (F32.inf false).gtPhaseEps = true ∧ (F32.inf true).gtPhaseEps = false

/-- R13: the bit patterns of the constants, and each literal of the rules and of R70's ranges and defaults is the binary32
value nearest its decimal. That `PAN_CENTER` is the block's own `F.sin` of `PI_OVER_4` is the model's reading (assumption
15). `PHASE_EPS`, which is no binary32 value, is in PhaseThresholdIsNoBinary32Value. -/
def Obligations.ConstantsAreNearestTheirDecimals : Prop :=
  [K.pi, K.piOver4, K.twoPi, K.silence, K.leak, K.analog, K.fastRelease, K.bendCoef, K.ln2Over12, K.fNote0].map F32.toBits =
      [some 0x40490FDB#32, some 0x3F490FDB#32, some 0x40C90FDB#32, some 0x38D1B717#32, some 0x3F7F3B64#32,
        some 0x3B03126F#32, some 0x3F400000#32, some 0x376C97A1#32, some 0x3D6C9820#32, some 0x4102D013#32] ∧
    K.pi = F32.nearest 314159265358979 (10 ^ 14) ∧ K.piOver4 = F32.nearest 785398163397448 (10 ^ 15) ∧
    K.twoPi = F32.nearest 628318530717959 (10 ^ 14) ∧ K.silence = F32.nearest 1 10000 ∧ K.leak = F32.nearest 997 1000 ∧
    K.analog = F32.nearest 2 1000 ∧ K.fastRelease = F32.nearest 75 100 ∧ K.bendCoef = F32.nearest 14102 (10 ^ 9) ∧
    K.ln2Over12 = F32.nearest 5776226505 (10 ^ 11) ∧ K.fNote0 = F32.nearest 81757989156 (10 ^ 10) ∧
    K.panCenter = K.piOver4.sin ∧ K.zero = F32.nearest 0 1 ∧
    K.half = F32.nearest 5 10 ∧ K.one = F32.nearest 1 1 ∧ K.two = F32.nearest 2 1 ∧ K.three = F32.nearest 3 1 ∧
    K.six = F32.nearest 6 1 ∧ K.twentyFour = F32.nearest 24 1 ∧ K.hundred = F32.nearest 100 1 ∧
    K.fourThousandths = F32.nearest 4 1000 ∧ K.cent = F32.nearest 1 100 ∧ K.expTcSlope = F32.nearest 75 1000 ∧
    K.fiveHalf = F32.nearest 55 10 ∧ K.seven = F32.nearest 7 1 ∧ K.four = F32.nearest 4 1 ∧ K.eight = F32.nearest 8 1 ∧
    K.detuneBase = F32.nearest 1059463 1000000 ∧ K.nyquistShare = F32.nearest 45 100 ∧ K.thirty = F32.nearest 30 1 ∧
    K.cutoffCap = F32.nearest 20000 1 ∧ K.noiseScale = F32.nearest 16777216 1 ∧ K.floatLfoMax = F32.nearest 32 1 ∧
    K.sampleRateMin = F32.nearest 8000 1 ∧ K.sampleRateMax = F32.nearest 192000 1 ∧ K.twenty = F32.nearest 20 1 ∧
    K.fifty = F32.nearest 50 1 ∧ K.qDefault = F32.nearest 707 1000 ∧ K.nineTenths = F32.nearest 9 10 ∧
    K.minusOne = (F32.nearest 1 1).neg ∧ K.minusTwo = (F32.nearest 2 1).neg ∧ K.searchStart = F32.nearest 100 1

/-! ## Encoding (30_encoding.md) -/

/-- R133, R135: for every instruction of the twelve MIDI rows, with every operand at every value its row admits,
decoding the encoded message gives the instruction back. -/
def Obligations.DecodeOfEncodeIsIdentity : Prop :=
  ∀ (h : BitVec 3) (c : Nibble) (d1 d2 : Data7) (k : BitVec 3),
    RoundTrips (.midiIgnData h c d1 d2) ∧ RoundTrips (.midiNoteOff c d1 d2) ∧ RoundTrips (.midiNoteOnV0 c d1) ∧
      RoundTrips (.midiNoteOn c d1 d2) ∧ RoundTrips (.midiIgnPolyPressure c d1 d2) ∧ RoundTrips (.midiCcSustain c d2) ∧
      RoundTrips (.midiCcPanic c k d2) ∧ RoundTrips (.midiCcOther c d1 d2) ∧ RoundTrips (.midiIgnProgram c d1 d2) ∧
      RoundTrips (.midiIgnChannelPressure c d1 d2) ∧ RoundTrips (.midiPitchBend c d1 d2) ∧
      RoundTrips (.midiIgnSystem c d1 d2)

/-- R132, R134: every command word decodes to a well-formed instruction, and encoding that instruction gives the word
back but for the ignored bits 15 and 7. -/
def Obligations.EncodeOfDecodeKeepsTheReadBits : Prop :=
  ∀ b0 b1 b2 : Byte,
    ∃ i, decode [b0, b1, b2] = .ok i ∧ i.wellFormed = true ∧ encode i = some [b0, b1 &&& 0x7F#8, b2 &&& 0x7F#8]

/-- R133, R134: the decoder takes the first row of the table that matches, every word matches one, and the mnemonic
rows are those of spec/opcode_table.json with its match and mask. -/
def Obligations.DecodeTakesTheFirstMatchingRow : Prop :=
  ∀ w : CmdWord, (midiTable.find? fun r => r.accepts w).map TableRow.row = some (rowOf w)

/-- R132: the channel nibble and bit 7 of each data byte are ignored: for a ready block two messages that differ only
there have the same effect. -/
def Obligations.ChannelAndHighDataBitsAreIgnored : Prop :=
  ∀ (h c c' : Nibble) (d1 d2 : Data7) (x x' y y' : BitVec 1) (s : State), s.engine.ready = true →
    exec (.hostMidi [h ++ c, x ++ d1, y ++ d2]) s = exec (.hostMidi [h ++ c', x' ++ d1, y' ++ d2]) s

/-- R133, R131: one message of each row, written from its condition, decodes to that row's instruction; a message of no
byte or of more than three has none, missing bytes are read as 0. R146: each pseudo-command expands to its message, which
decodes to the instruction it names; `bend b` carries the low and the high seven bits of `b`; `noteon n 0` is none, its message
is the note-off of row 3. -/
def Obligations.SampleMessagesDecodeToTheirRows : Prop :=
  decode [0x3C#8, 0x64#8] = .ok (.midiIgnData 0x3 0xC 0x64 0x00) ∧
    decode [0x80#8, 0x3C#8, 0x40#8] = .ok (.midiNoteOff 0x0 0x3C 0x40) ∧
    decode [0x91#8, 0x3C#8, 0x00#8] = .ok (.midiNoteOnV0 0x1 0x3C) ∧
    decode [0x90#8, 0x3C#8, 0x64#8] = .ok (.midiNoteOn 0x0 0x3C 0x64) ∧
    decode [0xA2#8, 0x3C#8, 0x10#8] = .ok (.midiIgnPolyPressure 0x2 0x3C 0x10) ∧
    decode [0xB0#8, 0x40#8, 0x7F#8] = .ok (.midiCcSustain 0x0 0x7F) ∧
    decode [0xB0#8, 0x7B#8, 0x00#8] = .ok (.midiCcPanic 0x0 0x3 0x00) ∧
    decode [0xB0#8, 0x01#8, 0x7F#8] = .ok (.midiCcOther 0x0 0x01 0x7F) ∧
    decode [0xC0#8, 0x05#8] = .ok (.midiIgnProgram 0x0 0x05 0x00) ∧
    decode [0xD0#8, 0x40#8] = .ok (.midiIgnChannelPressure 0x0 0x40 0x00) ∧
    decode [0xE0#8, 0x00#8, 0x40#8] = .ok (.midiPitchBend 0x0 0x00 0x40) ∧
    decode [0xF8#8] = .ok (.midiIgnSystem 0x8 0x00 0x00) ∧
    decode [] = .error .emptyMessage ∧
    (∀ b0 b1 b2 b3 rest, decode (b0 :: b1 :: b2 :: b3 :: rest) = .error .longMessage) ∧
    (∀ b0, decode [b0] = decode [b0, 0#8, 0#8]) ∧ (∀ b0 b1, decode [b0, b1] = decode [b0, b1, 0#8]) ∧
    (∀ p : PseudoCommand, p.toCommand = .midi p.bytes ∧ (p.wellFormed = false ↔ ∃ n, p = .noteOn n 0)) ∧
    (∀ n v : Data7,
      PseudoCommand.bytes (.noteOn n v) = [0x90#8, 0#1 ++ n, 0#1 ++ v] ∧
        decode (PseudoCommand.bytes (.noteOn n v)) = .ok (if v = 0 then .midiNoteOnV0 0 n else .midiNoteOn 0 n v) ∧
        PseudoCommand.bytes (.noteOff n) = [0x80#8, 0#1 ++ n, 0x00#8] ∧
        decode (PseudoCommand.bytes (.noteOff n)) = .ok (.midiNoteOff 0 n 0)) ∧
    PseudoCommand.bytes .pedalDown = [0xB0#8, 0x40#8, 0x7F#8] ∧ PseudoCommand.bytes .pedalUp = [0xB0#8, 0x40#8, 0x00#8] ∧
    PseudoCommand.bytes .panic = [0xB0#8, 0x7B#8, 0x00#8] ∧ PseudoCommand.bytes .bendCenter = [0xE0#8, 0x00#8, 0x40#8] ∧
    decode (PseudoCommand.bytes .pedalDown) = .ok (.midiCcSustain 0 0x7F) ∧
    decode (PseudoCommand.bytes .pedalUp) = .ok (.midiCcSustain 0 0x00) ∧
    decode (PseudoCommand.bytes .panic) = .ok (.midiCcPanic 0 0x3 0x00) ∧
    decode (PseudoCommand.bytes .bendCenter) = .ok (.midiPitchBend 0 0x00 0x40) ∧
    ∀ b : BitVec 14, ∃ d1 d2 : Data7,
      PseudoCommand.bytes (.bend b) = [0xE0#8, 0#1 ++ d1, 0#1 ++ d2] ∧
        decode (PseudoCommand.bytes (.bend b)) = .ok (.midiPitchBend 0 d1 d2) ∧
        d1.toNat = b.toNat % 128 ∧ d2.toNat = b.toNat / 128

/-! ## Steps and runs (20_memory.md R110) -/

/-- R110: a step takes the next command from the port and is the execution of that command in the rest of the state.
With no command on the port a step changes nothing: the model's choice (assumption 3). -/
def Obligations.StepExecutesTheNextCommand : Prop :=
  (∀ (s : State) (c : Command) (rest : List Command), s.port = c :: rest →
      step s = exec c.toInstr { s with port := rest }) ∧
    ∀ s : State, s.port = [] → step s = .next s

/-- R110, R133: where the next command is a MIDI message that decodes to `i`, a step of a ready block is the execution
of `i`, which is well formed, with the message taken from the port. -/
def Obligations.StepRunsTheDecodedMessage : Prop :=
  ∀ (s : State) (bytes : List Byte) (rest : List Command) (i : Instr),
    s.port = .midi bytes :: rest → s.engine.ready = true → decode bytes = .ok i →
      i.wellFormed = true ∧ step s = exec i { s with port := rest }

/-! ## Oscillator (40_oscillator.md) -/

/-- R201: the registers oscReset clears, the inputs it keeps, nothing else; the next nextSample begins a cycle. R203, R211
(first item): that sample is `amplitude ⊖ dc` and leaves the phase at -0.0. The sample is R203's formula also where the cycle
raises PERIOD_LOW or the flag is set already (R204; assumption 10: U1 lets no claim about the hardware rely on that value). -/
def Obligations.OscResetClearsPhaseState : Prop :=
  ∀ (s : State) (v : VoiceIdx) (o : OscId), ∃ t u, exec (.oscReset v o) s = .next t ∧
    OscFrame v o s t ∧ t.periodLow = s.periodLow ∧ exec (.nextSample v o) t = .next u ∧
    (let x := (s.voice v).osc o
     let y := (t.voice v).osc o
     let h := (x.period.div K.two).mul x.modulation
     let dc := (K.half.mul x.amplitude).div (((K.half.add h).floor).sub K.half)
     y = { period := x.period, amplitude := x.amplitude, modulation := x.modulation, phase := K.zero, inc := K.zero,
           phaseMax := K.zero, dc := K.zero, sin0 := K.zero, sin1 := K.zero, dsin := K.zero, saw := K.zero,
           polarity := K.one } ∧
     (y.phase.add y.inc).le K.piOver4 = true ∧
     u.ret = .word (x.amplitude.sub dc) ∧ ((u.voice v).osc o).phase = F32.zero true)

/-- R202, R203, R204, R205: one sample of the impulse train, at a cycle start and inside a cycle. The output with the
fault set is R203's formula (R204; assumption 10). -/
def Obligations.NextSampleStepsImpulseTrain : Prop :=
  ∀ (s : State) (v : VoiceIdx) (o : OscId), ∃ t, exec (.nextSample v o) s = .next t ∧ OscFrame v o s t ∧
    (let x := (s.voice v).osc o
     let y := (t.voice v).osc o
     let phase := x.phase.add x.inc
     let h := (x.period.div K.two).mul x.modulation
     let pm := ((K.half.add h).floor).sub K.half
     y.period = x.period ∧ y.amplitude = x.amplitude ∧ y.modulation = x.modulation ∧ y.saw = x.saw ∧
     y.polarity = x.polarity ∧
     if phase.le K.piOver4 = true then
       y.dc = (K.half.mul x.amplitude).div pm ∧ y.phaseMax = pm.mul K.pi ∧ y.inc = (pm.mul K.pi).div h ∧
       y.phase = phase.neg ∧ y.sin0 = x.amplitude.mul y.phase.sin ∧ y.sin1 = x.amplitude.mul (y.phase.sub y.inc).sin ∧
       y.dsin = K.two.mul y.inc.cos ∧ t.periodLow = (s.periodLow || h.lt K.three) ∧
       t.ret = .word ((if (y.phase.mul y.phase).gtPhaseEps then y.sin0.div y.phase else x.amplitude).sub y.dc)
     else
       (if phase.gt x.phaseMax = true then y.phase = (x.phaseMax.add x.phaseMax).sub phase ∧ y.inc = x.inc.neg
        else y.phase = phase ∧ y.inc = x.inc) ∧
       y.dc = x.dc ∧ y.phaseMax = x.phaseMax ∧ y.dsin = x.dsin ∧ t.periodLow = s.periodLow ∧
       y.sin0 = (x.dsin.mul x.sin0).sub x.sin1 ∧ y.sin1 = x.sin0 ∧ t.ret = .word ((y.sin0.div y.phase).sub x.dc))

/-- R207: oscRender is nextSample, its output negated where the polarity is negative, added into the leaky integrator,
which is returned; a non-finite sample or integrator leaves the integrator non-finite. -/
def Obligations.OscRenderIntegratesTheTrain : Prop :=
  ∀ (s : State) (v : VoiceIdx) (o : OscId), ∃ u t, exec (.nextSample v o) s = .next u ∧
    exec (.oscRender v o) s = .next t ∧ OscFrame v o s t ∧ t.periodLow = u.periodLow ∧
    (let n := (u.voice v).osc o
     let x := if n.polarity.lt K.zero then (returned u).neg else returned u
     let saw := (n.saw.mul K.leak).add x
     (t.voice v).osc o = { n with saw := saw } ∧ t.ret = .word saw ∧
     (isFinite (returned u) = false ∨ isFinite n.saw = false → isFinite saw = false))

/-- R209: the square lock of osc2 behind osc1, for `other` rising, falling and never started. -/
def Obligations.SquareWaveLocksHalfACycleBehind : Prop :=
  ∀ (s : State) (v : VoiceIdx) (newPeriod : F32), ∃ t, exec (.squareWave v newPeriod) s = .next t ∧
    OscFrame v .osc2 s t ∧ t.periodLow = s.periodLow ∧
    (let other := (s.voice v).osc1
     let x := (s.voice v).osc2
     let halfCycle := (K.pi.mul newPeriod).div K.two
     let phase :=
       if other.inc.gt K.zero then (((other.phaseMax.add other.phaseMax).sub other.phase)).add halfCycle
       else if other.inc.lt K.zero then other.phase.add halfCycle
       else K.pi.neg.add halfCycle
     let inc := if other.inc.gt K.zero then other.inc.neg else if other.inc.lt K.zero then other.inc else K.pi
     (t.voice v).osc2 =
       { period := x.period, amplitude := x.amplitude, modulation := x.modulation, phase := phase, inc := inc,
         phaseMax := phase, dc := K.zero, sin0 := K.zero, sin1 := K.zero, dsin := K.zero, saw := K.zero,
         polarity := K.one.neg })

/-! ## Filter (41_filter.md) -/

/-- R241: the five coefficients; the integrators are kept. -/
def Obligations.UpdateCoefficientsKeepsIntegrators : Prop :=
  ∀ (s : State) (v : VoiceIdx) (cutoff q : F32), ∃ t, exec (.updateCoefficients v cutoff q) s = .next t ∧
    FilterFrame v s t ∧
    (let x := (s.voice v).filter
     let y := (t.voice v).filter
     y.g = ((K.pi.mul cutoff).div s.engine.sampleRate).tan ∧ y.k = K.one.div q ∧
     y.a1 = K.one.div (K.one.add (y.g.mul (y.g.add y.k))) ∧ y.a2 = y.g.mul y.a1 ∧ y.a3 = y.g.mul y.a2 ∧
     y.ic1eq = x.ic1eq ∧ y.ic2eq = x.ic2eq)

/-- R242, with the Cytomic line `v3 = x ⊖ ic2eq` (90_conflicts.md C1). -/
def Obligations.FilterRenderStepsIntegrators : Prop :=
  ∀ (s : State) (v : VoiceIdx) (x : F32), ∃ t, exec (.filterRender v x) s = .next t ∧ FilterFrame v s t ∧
    (let f := (s.voice v).filter
     let v3 := x.sub f.ic2eq
     let v1 := (f.a1.mul f.ic1eq).add (f.a2.mul v3)
     let v2 := (f.ic2eq.add (f.a2.mul f.ic1eq)).add (f.a3.mul v3)
     (t.voice v).filter = { f with ic1eq := (K.two.mul v1).sub f.ic1eq, ic2eq := (K.two.mul v2).sub f.ic2eq } ∧
     t.ret = .word v2)

/-- R243: all seven registers 0.0. R242, corner case: afterwards the filter outputs 0.0 for every finite input and stays
as it is. -/
def Obligations.FilterResetZeroesAndSilences : Prop :=
  ∀ (s : State) (v : VoiceIdx), ∃ t, exec (.filterReset v) s = .next t ∧ FilterFrame v s t ∧
    (t.voice v).filter =
      { g := K.zero, k := K.zero, a1 := K.zero, a2 := K.zero, a3 := K.zero, ic1eq := K.zero, ic2eq := K.zero } ∧
    ∀ x : F32, isFinite x = true →
      ∃ u, exec (.filterRender v x) t = .next u ∧ u.ret = .word K.zero ∧ (u.voice v).filter = (t.voice v).filter

/-! ## Envelope (42_envelope.md) -/

/-- R261: the kick, the sentinel target, the multiplier; from level 0 the result is exactly `2·SILENCE`; from any level
not below 0 the envelope is afterwards active and in attack. -/
def Obligations.AttackKicksTheLevel : Prop :=
  ∀ (s : State) (v : VoiceIdx), ∃ t a b, exec (.attack v) s = .next t ∧ EnvFrame v s t ∧
    exec (.isActive v) t = .next a ∧ exec (.isInAttack v) t = .next b ∧
    (let x := (s.voice v).env
     (t.voice v).env =
       { x with level := x.level.add (K.silence.add K.silence), target := K.two, multiplier := x.attackMultiplier } ∧
     (x.level = K.zero → (t.voice v).env.level = .ofBits 0x3951B717#32) ∧
     (x.level.ge K.zero = true → a.ret = .flag true ∧ b.ret = .flag true))

/-- R262: the one-pole step; the transition where the new level plus the old target exceeds 3.0; the new level is
returned. -/
def Obligations.NextValueStepsTheEnvelope : Prop :=
  ∀ (s : State) (v : VoiceIdx), ∃ t, exec (.nextValue v) s = .next t ∧ EnvFrame v s t ∧
    (let x := (s.voice v).env
     let level := (x.multiplier.mul (x.level.sub x.target)).add x.target
     t.ret = .word level ∧
     (t.voice v).env =
       if (level.add x.target).gt K.three = true then
         { x with level := level, multiplier := x.decayMultiplier, target := x.sustainLevel }
       else { x with level := level })

/-- R264: the level is kept; the attack ends; a second release has no further effect. R313: voiceNoteOff is the release
and writes nothing else. -/
def Obligations.ReleaseKeepsTheLevel : Prop :=
  ∀ (s : State) (v : VoiceIdx), ∃ t u b, exec (.release v) s = .next t ∧ exec (.voiceNoteOff v) s = .next t ∧
    EnvFrame v s t ∧ t.ret = s.ret ∧
    (t.voice v).env = { (s.voice v).env with target := K.zero, multiplier := (s.voice v).env.releaseMultiplier } ∧
    exec (.release v) t = .next u ∧ (u.voice v).env = (t.voice v).env ∧
    exec (.isInAttack v) t = .next b ∧ b.ret = .flag false

/-- R266, R267: the two predicates write no register; a NaN level is not active. R268: envReset zeroes three registers
and keeps the per-segment ones; afterwards the envelope is inactive and not in attack. -/
def Obligations.StatusPredicatesAndEnvReset : Prop :=
  ∀ (s : State) (v : VoiceIdx),
    exec (.isActive v) s = .next { s with ret := .flag ((s.voice v).env.level.gt K.silence) } ∧
    exec (.isInAttack v) s = .next { s with ret := .flag ((s.voice v).env.target.ge K.two) } ∧
    F32.nan.gt K.silence = false ∧
    ∃ t, exec (.envReset v) s = .next t ∧ EnvFrame v s t ∧
      (t.voice v).env = { (s.voice v).env with level := K.zero, target := K.zero, multiplier := K.zero } ∧
      exec (.isActive v) t = .next { t with ret := .flag false } ∧
      exec (.isInAttack v) t = .next { t with ret := .flag false }

/-! ## LFO and noise (43_lfo_noise.md) -/

/-- R291: the countdown, and at a tick the phase with its wrap, the two factors, and for each active voice the modulation,
the period refresh (R340) and the filter coefficients (R246); inactive voices are not updated. -/
def Obligations.LfoTickUpdatesActiveVoices : Prop :=
  ∀ s : State, ∃ t, exec .lfoTick s = .next t ∧
    t = { s with lfo := t.lfo, voices := t.voices } ∧
    if s.lfo.step - 1 ≤ 0 then
      let phase := s.lfo.phase.add s.derived.lfoInc
      let wrapped := if phase.gt K.pi = true then phase.sub K.twoPi else phase
      let vib := K.one.add (wrapped.sin.mul (s.param 9))
      let filt := K.one.add (wrapped.sin.mul (s.param 10))
      t.lfo = { step := 32, phase := wrapped, vib := vib, filt := filt } ∧
      ∀ v,
        let x := s.voice v
        let y := t.voice v
        if x.env.level.gt K.silence = true then
          y.note = x.note ∧ y.velocity = x.velocity ∧ y.period = x.period ∧ y.panLeft = x.panLeft ∧
          y.panRight = x.panRight ∧ y.env = x.env ∧
          y.osc1 = { x.osc1 with modulation := vib, period := x.period.mul s.engine.pitchBend } ∧
          y.osc2 = { x.osc2 with modulation := vib,
                                 period := (x.period.mul s.engine.pitchBend).mul
                                   (if (s.param 19).eq K.one = true then K.one else s.derived.detune) } ∧
          (let cutoff := ((s.param 11).mul filt).clamp K.thirty s.derived.cutoffMax
           ∃ u, exec (.updateCoefficients v cutoff (s.param 12)) s = .next u ∧ y.filter = (u.voice v).filter)
        else y = x
    else t.lfo = { s.lfo with step := s.lfo.step - 1 } ∧ t.voices = s.voices

/-- R296: the generator's step, and that the returned value is exactly `t·2^-24` for `t = (seed >> 7) - 2^24`; so it
is in [-1, 1 - 2^-24] (R297, first sentence). -/
def Obligations.NoiseNextReturnsExactSample : Prop :=
  ∀ s : State, ∃ t, exec .noiseNext s = .next t ∧
    t.seed = BitVec.ofNat 32 ((s.seed.toNat * 196314165 + 907633515) % 2 ^ 32) ∧
    (∃ neg e f, t.ret = .word (.num neg e f) ∧
      F32.signed neg e f = ((t.seed.toNat / 128 : Int) - 16777216) * 2 ^ 125 ∧
      -(2 ^ 149 : Int) ≤ F32.signed neg e f ∧ F32.signed neg e f ≤ 2 ^ 149 - 2 ^ 125) ∧
    t = { s with seed := t.seed, ret := t.ret }

/-! ## Voice (44_voice.md) -/

/-- R311: osc1, osc2, filter and envelope in this order, as their own operations do it one after another, and the
filter output times the envelope value; R312's gains and the note registers are kept. -/
def Obligations.VoiceRenderRunsItsUnitsInOrder : Prop :=
  ∀ (s : State) (v : VoiceIdx) (xIn : F32), ∃ s1 s2 s3 s4 t,
    exec (.oscRender v .osc1) s = .next s1 ∧ exec (.oscRender v .osc2) s1 = .next s2 ∧
      exec (.filterRender v (((returned s1).add (returned s2)).add xIn)) s2 = .next s3 ∧
      exec (.nextValue v) s3 = .next s4 ∧ exec (.voiceRender v xIn) s = .next t ∧
      t = { s4 with ret := .word ((returned s3).mul (returned s4)) }

/-- R312: the pan gains; from note 36 down and from note 84 up (for notes a slot can hold) they are those of the
saturated position. -/
def Obligations.VoiceUpdateSaturatesPan : Prop :=
  ∀ (s : State) (v : VoiceIdx), ∃ t, exec (.voiceUpdate v) s = .next t ∧ VoiceFrame v s t ∧
    (let x := s.voice v
     let p := ((F32.ofInt (x.note - 60)).div K.twentyFour).clamp K.one.neg K.one
     t.voice v = { x with panLeft := (K.piOver4.mul (K.one.sub p)).sin, panRight := (K.piOver4.mul (K.one.add p)).sin } ∧
     (-1 ≤ x.note → x.note ≤ 36 →
       (t.voice v).panLeft = (K.piOver4.mul K.two).sin ∧ (t.voice v).panRight = K.zero.sin) ∧
     (84 ≤ x.note → x.note ≤ 127 →
       (t.voice v).panLeft = K.zero.sin ∧ (t.voice v).panRight = (K.piOver4.mul K.two).sin) ∧
     (x.note = 60 → (t.voice v).panLeft = K.piOver4.sin ∧ (t.voice v).panRight = K.piOver4.sin))

/-- R315: the voice is idle, inactive and not in attack; `period` and the oscillators' inputs are kept. -/
def Obligations.VoiceResetIdlesTheSlot : Prop :=
  ∀ (s : State) (v : VoiceIdx), ∃ t a b, exec (.voiceReset v) s = .next t ∧ VoiceFrame v s t ∧
    (let x := s.voice v
     let cleared := fun (o : Osc) =>
       ({ period := o.period, amplitude := o.amplitude, modulation := o.modulation, phase := K.zero, inc := K.zero,
          phaseMax := K.zero, dc := K.zero, sin0 := K.zero, sin1 := K.zero, dsin := K.zero, saw := K.zero,
          polarity := K.one } : Osc)
     t.voice v =
       { note := 0, velocity := 0, period := x.period, osc1 := cleared x.osc1, osc2 := cleared x.osc2,
         env := { x.env with level := K.zero, target := K.zero, multiplier := K.zero },
         filter := { g := K.zero, k := K.zero, a1 := K.zero, a2 := K.zero, a3 := K.zero, ic1eq := K.zero,
                     ic2eq := K.zero },
         panLeft := K.piOver4.sin, panRight := K.piOver4.sin }) ∧
    exec (.isActive v) t = .next a ∧ a.ret = .flag false ∧ exec (.isInAttack v) t = .next b ∧ b.ret = .flag false

/-! ## Engine (45_engine_midi.md) -/

/-- R336: the search returns the voice of the lowest level not in attack, the first of equal ones, and 0 where there is
no candidate; it writes no register. -/
def Obligations.FindFreeVoiceTakesLowestCandidate : Prop :=
  ∀ s : State, ∃ v, exec .findFreeVoice s = .next { s with ret := .voice v } ∧
    ((∃ i, Candidate s i) →
      Candidate s v ∧ ∀ i, Candidate s i →
        (s.voice i).env.level.lt (s.voice v).env.level = false ∧
          (i < v → (s.voice v).env.level.lt (s.voice i).env.level = true)) ∧
    ((∀ i, ¬ Candidate s i) → v = 0)

/-- R339: the base period is doubled until it and the secondary's are at least 6 samples; the returned period is the
first such doubling, and no register is written. Where no doubling is, the loop never ends and the model stops
(assumption 9); that is never so unless the base period is zero or negative, or the detune ratio negative. -/
def Obligations.CalcPeriodDoublesUntilLongEnough : Prop :=
  ∀ (s : State) (v : VoiceIdx) (note : Nat),
    let detuneEff := if (s.param 19).eq K.one = true then K.one else s.derived.detune
    let x := ((F32.ofInt note).add (K.analog.mul (F32.ofInt v.val))).add (K.cent.mul (s.param 7))
    let base := s.derived.tuneBase.mul ((K.ln2Over12.neg.mul x).exp)
    let short := fun p : F32 => p.lt K.six = true ∨ (p.mul detuneEff).lt K.six = true
    (∀ k, ¬ short (doubledTimes base k) → (∀ j < k, short (doubledTimes base j)) →
        exec (.calcPeriod v note) s = .next { s with ret := .word (doubledTimes base k) }) ∧
      ((∀ k, short (doubledTimes base k)) → exec (.calcPeriod v note) s = .fault .periodLoopDiverges) ∧
      (base.le K.zero = false → detuneEff.lt K.zero = false →
        ∃ p, exec (.calcPeriod v note) s = .next { s with ret := .word p } ∧ ¬ short p)

/-- R341: every register startVoice writes, given the period that calcPeriod returns; where calcPeriod stops, startVoice
stops the same way. The literal 0.004 is the binary32 one (assumption 16). -/
def Obligations.StartVoiceLoadsTheSlot : Prop :=
  ∀ (s : State) (v : VoiceIdx) (note velocity : Nat),
    (exec (.calcPeriod v note) s = .fault .periodLoopDiverges →
      exec (.startVoice v note velocity) s = .fault .periodLoopDiverges) ∧
    ∀ c, exec (.calcPeriod v note) s = .next c →
      ∃ t, exec (.startVoice v note velocity) s = .next t ∧ VoiceFrame v s t ∧
        (let x := s.voice v
         let y := t.voice v
         let period := returned c
         let gain := (K.fourThousandths.mul (F32.ofInt ((velocity + 64) * (velocity + 64)))).sub K.eight
         let pan := ((F32.ofInt ((note : Int) - 60)).div K.twentyFour).clamp K.one.neg K.one
         let p1 := period.mul s.engine.pitchBend
         let square := (s.param 19).eq K.one
         let osc1 : Osc :=
           { x.osc1 with amplitude := (s.param 14).mul gain, modulation := s.lfo.vib, period := p1 }
         let osc2 : Osc :=
           { x.osc2 with
             amplitude := ((s.param 14).mul gain).mul (s.param 6), modulation := s.lfo.vib,
             period := p1.mul (if square = true then K.one else s.derived.detune) }
         y.note = note ∧ y.velocity = velocity ∧ y.period = period ∧
         y.panLeft = (K.piOver4.mul (K.one.sub pan)).sin ∧ y.panRight = (K.piOver4.mul (K.one.add pan)).sin ∧
         y.osc1 = osc1 ∧
         (if square = true then
            ∃ u, exec (.squareWave v period) (s.setVoice v { x with osc1 := osc1, osc2 := osc2 }) = .next u ∧
              y.osc2 = (u.voice v).osc2
          else y.osc2 = { osc2 with polarity := K.one }) ∧
         (∃ u, exec (.updateCoefficients v (((s.param 11).mul s.lfo.filt).clamp K.thirty s.derived.cutoffMax) (s.param 12)) s
             = .next u ∧ y.filter = (u.voice v).filter) ∧
         y.env =
           { level := x.env.level.add (K.silence.add K.silence), target := K.two, multiplier := s.derived.envAttack,
             attackMultiplier := s.derived.envAttack, decayMultiplier := s.derived.envDecay,
             sustainLevel := s.derived.envSustain, releaseMultiplier := s.derived.envRelease })

/-- R342, R348: noteOn starts voice 0 in mono mode, else the searched voice, with velocity 80 where the velocity is
ignored. -/
def Obligations.NoteOnStartsTheChosenVoice : Prop :=
  ∀ (s : State) (note velocity : Nat), ∃ v, exec .findFreeVoice s = .next { s with ret := .voice v } ∧
    exec (.noteOn note velocity) s =
      exec (.startVoice (if s.engine.numVoices = 1 then 0 else v) note
        (if (s.param 17).eq K.one = true then 80 else velocity)) s

/-- R341, R342, R331, R405: where the doubling loop ends (whatever slot is chosen), startVoice, noteOn, a NOTE_ON of a
ready block and the MIDI call of any message complete; a note start sets no record and changes one voice only. -/
def Obligations.NoteStartsComplete : Prop :=
  ∀ (s : State) (note velocity : Nat), PeriodLoopEnds s note →
    (∀ v, ∃ t, exec (.startVoice v note velocity) s = .next t ∧ VoiceFrame v s t) ∧
    (∃ v t, exec (.noteOn note velocity) s = .next t ∧ VoiceFrame v s t) ∧
    (∀ (c : Nibble) (d1 d2 : Data7), s.engine.ready = true → d1.toNat = note →
      ∃ v t, exec (.midiNoteOn c d1 d2) s = .next t ∧ VoiceFrame v s t) ∧
    ∀ bytes : List Byte, (bytes.getD 1 0).toNat % 128 = note →
      ∃ t, exec (.hostMidi bytes) s = .next t

/-- R344: every slot that holds the note is marked SUSTAIN with the pedal down, else released with its note cleared; no
other slot changes. -/
def Obligations.NoteOffReleasesOrMarksEveryMatch : Prop :=
  ∀ (s : State) (note : Int), ∃ t, exec (.noteOff note) s = .next t ∧ VoicesFrame s t ∧ t.ret = s.ret ∧
    ∀ v, if (s.voice v).note = note then
        if s.engine.sustainPedal = true then t.voice v = { s.voice v with note := -1 }
        else ∃ u, exec (.voiceNoteOff v) s = .next u ∧ t.voice v = { u.voice v with note := 0 }
      else t.voice v = s.voice v

/-- R345: the pedal register; on pedal-up the note-off of the SUSTAIN mark, else nothing more. -/
def Obligations.SustainPedalUpReleasesMarked : Prop :=
  ∀ (s : State) (value : Nat),
    exec (.sustainPedalChange value) s =
      (let t := { s with engine := { s.engine with sustainPedal := decide (64 ≤ value) } }
       if 64 ≤ value then .next t else exec (.noteOff (-1)) t) ∧
    ∃ t, exec (.sustainPedalChange value) s = .next t ∧ t.engine = { s.engine with sustainPedal := decide (64 ≤ value) } ∧
      SameShared s { t with engine := s.engine } ∧ t.periodLow = s.periodLow ∧
      (64 ≤ value → SameVoices s t) ∧
      (value < 64 → ∀ v,
        if (s.voice v).note = -1 then
          t.voice v =
            { s.voice v with
              note := 0,
              env := { (s.voice v).env with target := K.zero, multiplier := (s.voice v).env.releaseMultiplier } }
        else t.voice v = s.voice v)

/-- R346: every voice is reset as voiceReset does it, the pedal is up; the LFO, the seed, the pitch bend and the
parameters are kept. -/
def Obligations.PanicResetsEveryVoice : Prop :=
  ∀ s : State, ∃ t, exec .panic s = .next t ∧ t.engine = { s.engine with sustainPedal := false } ∧
    SameShared s { t with engine := s.engine } ∧ t.periodLow = s.periodLow ∧ t.ret = s.ret ∧
    ∀ v, ∃ u, exec (.voiceReset v) s = .next u ∧ t.voice v = u.voice v

/-- R347: the bend ratio, `exp(-0.0)` at the centre; no voice changes before the next refresh. R340: the refresh sets the
period inputs from the voice's base period, the bend and the effective detune. -/
def Obligations.PitchBendReachesTheNextRefresh : Prop :=
  ∀ (s : State) (bend : Int) (v : VoiceIdx), ∃ t u, exec (.setPitchBend bend) s = .next t ∧
    t.engine = { s.engine with pitchBend := (K.bendCoef.neg.mul (F32.ofInt bend)).exp } ∧
    (bend = 0 → t.engine.pitchBend = (F32.zero true).exp) ∧
    SameShared s { t with engine := s.engine } ∧ SameVoices s t ∧ t.periodLow = s.periodLow ∧
    exec (.refreshPeriods v) s = .next u ∧ VoiceFrame v s u ∧
    (let x := s.voice v
     let p1 := x.period.mul s.engine.pitchBend
     u.voice v =
       { x with
         osc1 := { x.osc1 with period := p1 },
         osc2 := { x.osc2 with period := p1.mul (if (s.param 19).eq K.one = true then K.one else s.derived.detune) } })

/-! ## MIDI rows (45_engine_midi.md R330-R335, 46_host_render.md R374) -/

/-- R330, R332: NOTE_OFF and NOTE_ON_V0 are the note-off of `d1`, whatever the release velocity. R331: NOTE_ON is the
note-on of `d1` and `d2`. R333: the controller rows are the control change of their controller and value, which is the
pedal change for controller 0x40, panic from 0x78 up and no operation for the others. R334: PITCH_BEND is the pitch bend
of `d1 + 128·d2 - 8192`. Each but NOTE_ON (see NoteStartsComplete) completes whatever the state. -/
def Obligations.MessagesRunTheirOperations : Prop :=
  ∀ (s : State) (c : Nibble) (d1 d2 : Data7) (k : BitVec 3) (controller value : Nat),
    exec (.controlChange controller value) s =
        (if controller = 0x40 then exec (.sustainPedalChange value) s
         else if 0x78 ≤ controller then exec .panic s
         else .next s) ∧
      (∃ t, exec (.controlChange controller value) s = .next t) ∧
      (s.engine.ready = true →
        exec (.midiNoteOff c d1 d2) s = exec (.noteOff d1.toNat) s ∧
        exec (.midiNoteOnV0 c d1) s = exec (.noteOff d1.toNat) s ∧
        exec (.midiNoteOn c d1 d2) s = exec (.noteOn d1.toNat d2.toNat) s ∧
        exec (.midiCcSustain c d2) s = exec (.controlChange 0x40 d2.toNat) s ∧
        exec (.midiCcPanic c k d2) s = exec (.controlChange (0x78 + k.toNat) d2.toNat) s ∧
        exec (.midiCcOther c d1 d2) s = exec (.controlChange d1.toNat d2.toNat) s ∧
        exec (.midiPitchBend c d1 d2) s = exec (.setPitchBend ((d1.toNat : Int) + 128 * d2.toNat - 8192)) s ∧
        (∃ t, exec (.midiNoteOff c d1 d2) s = .next t) ∧ (∃ t, exec (.midiNoteOnV0 c d1) s = .next t) ∧
        (∃ t, exec (.midiCcSustain c d2) s = .next t) ∧ (∃ t, exec (.midiCcPanic c k d2) s = .next t) ∧
        ((Instr.midiCcOther c d1 d2).wellFormed = true → exec (.midiCcOther c d1 d2) s = .next s) ∧
        ∃ t, exec (.midiPitchBend c d1 d2) s = .next t)

/-- R335, R131, R404: the ignored rows, and messages of no byte or more than three, change nothing and set no
record, in a ready block. -/
def Obligations.IgnoredMessagesChangeNothing : Prop :=
  ∀ (s : State) (h : BitVec 3) (c : Nibble) (d1 d2 : Data7) (bytes : List Byte), s.engine.ready = true →
    exec (.midiIgnData h c d1 d2) s = .next s ∧ exec (.midiIgnPolyPressure c d1 d2) s = .next s ∧
      exec (.midiIgnProgram c d1 d2) s = .next s ∧ exec (.midiIgnChannelPressure c d1 d2) s = .next s ∧
      exec (.midiIgnSystem c d1 d2) s = .next s ∧
      (bytes.length = 0 ∨ 3 < bytes.length → exec (.hostMidi bytes) s = .next s)

/-- R130, R131, R133: MIDI runs the instruction its message decodes to. R374, R406: not ready, MIDI and each row are refused
with no other effect. That this takes in the messages R131 and R335 ignore is the model's choice (assumption 11, beside
R404), as is the message that a row executed directly records (assumption 12). -/
def Obligations.MidiRunsItsRowOrIsRefused : Prop :=
  ∀ (s : State) (bytes : List Byte) (i : Instr),
    (s.engine.ready = true → decode bytes = .ok i → exec (.hostMidi bytes) s = exec i s) ∧
      (s.engine.ready = false →
        exec (.hostMidi bytes) s =
          .next { s with refused := true, firstRefused := if s.refused then s.firstRefused else some (.midi bytes) }) ∧
      (s.engine.ready = false → encode i = some bytes →
        exec i s =
          .next { s with refused := true, firstRefused := if s.refused then s.firstRefused else some (.midi bytes) })

/-! ## Host calls, output, derivation (46_host_render.md) -/

/-- R371: ALLOC is refused for a sample rate that is NaN or outside [8000, 192000] and for a block size below 1, with no
other effect; else it records both, sets the flags and derives, and keeps the rest. The sample rate is then not 0.0, by which
SETPARAM knows that an ALLOC has been (assumption 22). -/
def Obligations.AllocRecordsAndDerives : Prop :=
  ∀ (s : State) (sampleRate : F32) (blockSize : Int),
    let bad := sampleRate.isNaN = true ∨ sampleRate.lt K.sampleRateMin = true ∨ sampleRate.gt K.sampleRateMax = true ∨
      blockSize < 1
    (bad → exec (.hostAlloc sampleRate blockSize) s =
      .next { s with refused := true,
                     firstRefused := if s.refused then s.firstRefused else some (.alloc sampleRate blockSize) }) ∧
    (¬ bad →
      let u := { s with engine := { s.engine with
        sampleRate := sampleRate, blockSize := blockSize, allocated := true, ready := false } }
      exec (.hostAlloc sampleRate blockSize) s = exec .derive u ∧
      ∃ t, exec (.hostAlloc sampleRate blockSize) s = .next t ∧
        t = { s with engine := { u.engine with numVoices := t.engine.numVoices }, derived := t.derived } ∧
        t.engine.sampleRate.eq K.zero = false)

/-- R372: DEALLOC clears the two flags and keeps the rest; after it RESET, RENDER and MIDI are refused. That every message is,
the ignored ones of R131 and R335 too, is the model's choice (assumption 11, beside R404). -/
def Obligations.DeallocThenRefuses : Prop :=
  ∀ s : State, ∃ t, exec .hostDealloc s = .next t ∧
    t = { s with engine := { s.engine with allocated := false, ready := false } } ∧
    ∀ (n : Nat) (bytes : List Byte), ∀ c ∈ [Command.reset, .render n, .midi bytes], refuses t c = true ∧
      exec c.toInstr t = .next { t with refused := true, firstRefused := if t.refused then t.firstRefused else some c }

/-- R373, R431: RESET of an allocated block, register by register, and what it keeps; else it is refused with no other
effect. -/
def Obligations.ResetIdlesTheBlock : Prop :=
  ∀ s : State,
    (s.engine.allocated = false →
      exec .hostReset s =
        .next { s with refused := true, firstRefused := if s.refused then s.firstRefused else some .reset }) ∧
    (s.engine.allocated = true → ∃ t, exec .hostReset s = .next t ∧
      t = { s with
        voices := t.voices, seed := 22222#32,
        lfo := { step := 0, phase := K.zero, vib := K.one, filt := K.one },
        engine := { s.engine with pitchBend := K.one, sustainPedal := false, ready := true } } ∧
      ∀ v, ∃ u, exec (.voiceReset v) s = .next u ∧ t.voice v = u.voice v)

/-- R376: reclaim resets the envelope and the filter of every inactive voice; nothing else changes. -/
def Obligations.ReclaimResetsInactiveVoices : Prop :=
  ∀ s : State, ∃ t, exec .reclaim s = .next t ∧ VoicesFrame s t ∧ t.ret = s.ret ∧
    ∀ v, if (s.voice v).env.level.gt K.silence = true then t.voice v = s.voice v
      else t.voice v =
        { s.voice v with
          env := { (s.voice v).env with level := K.zero, target := K.zero, multiplier := K.zero },
          filter := { g := K.zero, k := K.zero, a1 := K.zero, a2 := K.zero, a3 := K.zero, ic1eq := K.zero,
                      ic2eq := K.zero } }

/-- R379: a channel with a NaN, infinite or out-of-[-2, 2] word is silenced whole, else each word is limited to [-1, 1];
no register and no word of the other channel changes; the clamp is idempotent. -/
def Obligations.SafetyClampSilencesOrLimits : Prop :=
  ∀ (s : State) (ch : Channel), ∃ t, exec (.safetyClamp ch) s = .next t ∧
    ClampedWords (s.memory.words ch) (t.memory.words ch) ∧
    (∀ other, other ≠ ch → ∀ i, t.memory.outRead other i = s.memory.outRead other i) ∧
    t = { s with memory := t.memory } ∧ exec (.safetyClamp ch) t = .next t

/-- R390, R391 and the mappings R280-R284, R282, R283, R290, R337, R338, R245: every derived coefficient, and `numVoices`;
no voice register is written. -/
def Obligations.DeriveComputesEveryCoefficient : Prop :=
  ∀ s : State, ∃ t, exec .derive s = .next t ∧
    (let sr := s.engine.sampleRate
     let tc := fun p : F32 => ((K.one.div sr).neg.mul ((K.fiveHalf.sub (K.expTcSlope.mul p)).exp)).exp
     t = { s with
       derived :=
         { envAttack := tc (s.param 0), envDecay := tc (s.param 1), envSustain := (s.param 2).div K.hundred,
           envRelease := if (s.param 3).lt K.one = true then K.fastRelease else tc (s.param 3),
           detune := K.detuneBase.pow ((s.param 4).neg.sub (K.cent.mul (s.param 5))),
           tuneBase := sr.div K.fNote0,
           lfoInc := (((((K.seven.mul (s.param 8)).sub K.four).exp).mul K.floatLfoMax).div sr).mul K.twoPi,
           cutoffMax := K.cutoffCap.min (K.nyquistShare.mul sr) },
       engine := { s.engine with numVoices := if (s.param 16).eq K.one = true then 8 else 1 } })

/-- R389, R70: the ranges of P0 to P19 and which are switches; an accepted SETPARAM writes its register alone, and derives
after the first ALLOC (R390: the block is allocated, or its sample rate is no longer the unset 0.0); the other operands are
refused with no other effect. The model's choices here: a value that compares equal to 0.0 or 1.0 is a legal switch value, so
-0.0 is one (assumption 17); R389's "if allocated" does not end with a DEALLOC (assumption 22). -/
def Obligations.SetParamWritesOneRegister : Prop :=
  ∀ (s : State) (id : Int) (x : F32),
    let refusal := { s with refused := true, firstRefused := if s.refused then s.firstRefused else some (.setParam id x) }
    (K.paramTable.toList.map fun p => (p.lo, p.hi, p.isSwitch)) =
      [(K.zero, K.hundred, false), (K.zero, K.hundred, false), (K.zero, K.hundred, false), (K.zero, K.hundred, false),
        (K.twentyFour.neg, K.twentyFour, false), (K.fifty.neg, K.fifty, false), (K.zero, K.one, false),
        (K.hundred.neg, K.hundred, false), (K.zero, K.one, false), (K.zero, K.half, false), (K.zero, K.nineTenths, false),
        (K.thirty, K.cutoffCap, false), (K.half, K.twenty, false), (K.zero, K.one, false), (K.zero, K.cent, false),
        (K.zero, K.one, false), (K.zero, K.one, true), (K.zero, K.one, true), (K.zero, K.one, false), (K.zero, K.one, true)] ∧
    (id < 0 ∨ 20 ≤ id → exec (.hostSetParam id x) s = .next refusal) ∧
    ∀ i : Fin 20, id = i.val →
      let p := K.paramTable[i]
      let bad := x.isNaN = true ∨ x.lt p.lo = true ∨ x.gt p.hi = true ∨
        (p.isSwitch = true ∧ x.eq K.zero = false ∧ x.eq K.one = false)
      (bad → exec (.hostSetParam id x) s = .next refusal) ∧
      (¬ bad →
        exec (.hostSetParam id x) s =
          if s.engine.allocated = true ∨ s.engine.sampleRate.eq K.zero = false then exec .derive { s with params := s.params.set i x }
          else .next { s with params := s.params.set i x }) ∧
      ∃ t, exec (.hostSetParam id x) s = .next t

/-- R375, R377, R378: a RENDER of a ready block is the render loop over the block's own operations, in this order, and
completes; its words of an earlier call are gone (20_memory.md R101). Else it is refused with no other effect. An output word
reads as it was last written, and a write changes no other word (R101): the loop writes word `i` of a channel that holds words
`0` to `i - 1` (R102), and the clamp rewrites one of them. -/
def Obligations.RenderRunsTheSampleLoop : Prop :=
  ∀ (s : State) (n : Nat),
    (s.engine.ready = false →
      exec (.hostRender n) s =
        .next { s with refused := true, firstRefused := if s.refused then s.firstRefused else some (.render n) }) ∧
    (s.engine.ready = true → ∃ t, exec (.hostRender n) s = .next t ∧ t = { renderProgram n s with ret := s.ret }) ∧
    ∀ (m : Memory) (ch : Channel) (i : Nat) (x : F32), i ≤ (m.words ch).length →
      (m.outWrite ch i x).outRead ch i = some x ∧
        ∀ (c : Channel) (j : Nat), c ≠ ch ∨ j ≠ i → (m.outWrite ch i x).outRead c j = m.outRead c j

/-- R380, R100, R102: after a render call each channel has exactly `n` words, each finite and in [-1, 1]; the clamp that
silences them changes nothing but output words. -/
def Obligations.RenderedWordsAreBounded : Prop :=
  ∀ (s : State) (n : Nat),
    (s.engine.ready = true → ∃ t, exec (.hostRender n) s = .next t ∧
      ∀ ch, (t.memory.words ch).length = n ∧ ∀ i < n, ∃ x, t.memory.outRead ch i = some x ∧ isUnitWord x = true) ∧
    ∀ ch, ∃ u, exec (.safetyClamp ch) s = .next u ∧ u = { s with memory := u.memory }

/-- R111: a render call changes no parameter, no engine register, no coefficient, no REFUSED record, and of a voice not
its note, velocity, base period, pan gains, per-segment registers or amplitudes. R298, R417, R291: the seed takes `n` steps
and the LFO counter counts `n` samples, whatever the voices. -/
def Obligations.RenderKeepsTheSnapshotAndCounts : Prop :=
  ∀ (s : State) (n : Nat), s.engine.ready = true →
    ∃ t, exec (.hostRender n) s = .next t ∧ t.params = s.params ∧ t.engine = s.engine ∧ t.derived = s.derived ∧
      t.refused = s.refused ∧ t.firstRefused = s.firstRefused ∧ t.port = s.port ∧ t.ret = s.ret ∧
      (s.periodLow = true → t.periodLow = true) ∧
      t.seed = (fun w : Word32 => w * 196314165#32 + 907633515#32)^[n] s.seed ∧
      t.lfo.step = (fun k : Int => if k - 1 ≤ 0 then 32 else k - 1)^[n] s.lfo.step ∧
      ∀ v,
        let x := s.voice v
        let y := t.voice v
        y.note = x.note ∧ y.velocity = x.velocity ∧ y.period = x.period ∧ y.panLeft = x.panLeft ∧
          y.panRight = x.panRight ∧ y.env.attackMultiplier = x.env.attackMultiplier ∧
          y.env.decayMultiplier = x.env.decayMultiplier ∧ y.env.sustainLevel = x.env.sustainLevel ∧
          y.env.releaseMultiplier = x.env.releaseMultiplier ∧ y.osc1.amplitude = x.osc1.amplitude ∧
          y.osc2.amplitude = x.osc2.amplitude ∧ y.osc1.polarity = x.osc1.polarity ∧ y.osc2.polarity = x.osc2.polarity

/-- R314, R376: a voice inactive at the start of a render call is only reclaimed by it: its oscillators are frozen. -/
def Obligations.InactiveVoiceIsFrozen : Prop :=
  ∀ (s : State) (n : Nat) (v : VoiceIdx), s.engine.ready = true → (s.voice v).env.level.gt K.silence = false →
    ∃ t, exec (.hostRender n) s = .next t ∧
      t.voice v =
        { s.voice v with
          env := { (s.voice v).env with level := K.zero, target := K.zero, multiplier := K.zero },
          filter := { g := K.zero, k := K.zero, a1 := K.zero, a2 := K.zero, a3 := K.zero, ic1eq := K.zero,
                      ic2eq := K.zero } }

/-- R375, example: with no active voice and a legal output level a render call outputs zeros. -/
def Obligations.IdleBlockRendersZeros : Prop :=
  ∀ (s : State) (n : Nat), s.engine.ready = true → (∀ v, (s.voice v).env.level.gt K.silence = false) →
    paramValueBad 15 (s.param 15) = false →
    ∃ t, exec (.hostRender n) s = .next t ∧
      ∀ ch, (t.memory.words ch).length = n ∧ ∀ x ∈ t.memory.words ch, x.eq K.zero = true

/-! ## Whole-machine rules -/

/-- R430: the power-on state, register by register. The coefficients have no power-on value in the spec and are not
stated here (assumption 2). -/
def Obligations.PowerOnStateIsAsListed : Prop :=
  let s := State.reset
  (∀ v, s.voice v =
      { note := 0, velocity := 0, period := K.zero,
        osc1 := { period := K.zero, amplitude := K.one, modulation := K.one, phase := K.zero, inc := K.zero,
                  phaseMax := K.zero, dc := K.zero, sin0 := K.zero, sin1 := K.zero, dsin := K.zero, saw := K.zero,
                  polarity := K.one },
        osc2 := { period := K.zero, amplitude := K.one, modulation := K.one, phase := K.zero, inc := K.zero,
                  phaseMax := K.zero, dc := K.zero, sin0 := K.zero, sin1 := K.zero, dsin := K.zero, saw := K.zero,
                  polarity := K.one },
        env := { level := K.zero, target := K.zero, multiplier := K.zero, attackMultiplier := K.zero,
                 decayMultiplier := K.zero, sustainLevel := K.zero, releaseMultiplier := K.zero },
        filter := { g := K.zero, k := K.zero, a1 := K.zero, a2 := K.zero, a3 := K.zero, ic1eq := K.zero,
                    ic2eq := K.zero },
        panLeft := K.piOver4.sin, panRight := K.piOver4.sin }) ∧
    s.lfo = { step := 0, phase := K.zero, vib := K.one, filt := K.one } ∧ s.seed = 22222#32 ∧
    s.engine = { sampleRate := K.zero, blockSize := 0, allocated := false, ready := false, numVoices := 8,
                 pitchBend := K.one, sustainPedal := false } ∧
    s.params.toList =
      [K.zero, K.fifty, K.hundred, K.thirty, K.zero, K.zero, K.zero, K.zero, K.half, K.zero, K.zero, K.cutoffCap,
        K.qDefault, K.zero, K.fourThousandths, K.one, K.one, K.zero, K.zero, K.zero] ∧
    s.periodLow = false ∧ s.refused = false ∧ s.firstRefused = none

/-- The invariant holds at power-on. -/
def Obligations.InvariantHoldsAtPowerOn : Prop := Inv State.reset

/-- Every step keeps the invariant: the output words' canonical form and bound (R100, R380), the LFO counter's range
(R50), legal parameters (R70, with -0.0 legal at a bound of 0.0: assumption 17), readiness after allocation (R374),
coefficients current after the first ALLOC (R390), legal notes (R31, R345), the record with its flag (R402). That the
coefficients are current between a DEALLOC and the next ALLOC too is the model's choice (DESIGN CHOICE, assumption 22):
R389's pseudocode derives "if allocated". -/
def Obligations.StepKeepsTheInvariant : Prop :=
  ∀ s t : State, Inv s → step s = .next t → Inv t

/-- R80: no instruction clears a sticky record, and the recorded command is the first one. -/
def Obligations.RecordsAreSticky : Prop :=
  ∀ (i : Instr) (s t : State), exec i s = .next t →
    (s.periodLow = true → t.periodLow = true) ∧
      (s.refused = true → t.refused = true ∧ t.firstRefused = s.firstRefused)

/-- R406, R407: a command that a refusal check fails has no effect but the record; one that passes its checks sets no
REFUSED record. The checks are the rules' own but for two choices of the model: every message of a block that is not ready
fails, the ignored ones too (assumption 11, beside R404), and -0.0 passes for a switch (assumption 17). -/
def Obligations.RefusalHasNoOtherEffect : Prop :=
  ∀ (s : State) (c : Command),
    (refuses s c = true →
      exec c.toInstr s = .next { s with refused := true, firstRefused := if s.refused then s.firstRefused else some c }) ∧
      ∀ t, refuses s c = false → exec c.toInstr s = .next t → t.refused = s.refused ∧ t.firstRefused = s.firstRefused

/-- R50, R55, R60, R65, R70, R80 and 60_exceptions.md R415: the "written by" columns: which instructions can change the LFO
registers, the seed, each engine register, the coefficients, a parameter, the PERIOD_LOW record, the output words. The pedal's
clause is for well-formed instructions: CC_OTHER with a controller of another row is none. -/
def Obligations.RegistersAreWrittenOnlyByTheirRules : Prop :=
  ∀ (i : Instr) (s t : State), exec i s = .next t →
    (t.lfo ≠ s.lfo → i = .lfoTick ∨ i = .hostReset ∨ ∃ n, i = .hostRender n) ∧
      (t.seed ≠ s.seed → i = .noiseNext ∨ i = .hostReset ∨ ∃ n, i = .hostRender n) ∧
      (t.engine.sampleRate ≠ s.engine.sampleRate ∨ t.engine.blockSize ≠ s.engine.blockSize →
        ∃ sr bs, i = .hostAlloc sr bs) ∧
      (t.engine.allocated ≠ s.engine.allocated → (∃ sr bs, i = .hostAlloc sr bs) ∨ i = .hostDealloc) ∧
      (t.engine.ready ≠ s.engine.ready → (∃ sr bs, i = .hostAlloc sr bs) ∨ i = .hostDealloc ∨ i = .hostReset) ∧
      (t.engine.pitchBend ≠ s.engine.pitchBend →
        i = .hostReset ∨ (∃ b, i = .setPitchBend b) ∨ (∃ c d1 d2, i = .midiPitchBend c d1 d2) ∨ ∃ m, i = .hostMidi m) ∧
      (t.engine.sustainPedal ≠ s.engine.sustainPedal → i.wellFormed = true →
        i = .hostReset ∨ i = .panic ∨ (∃ x, i = .sustainPedalChange x) ∨ (∃ k x, i = .controlChange k x) ∨
          (∃ c d2, i = .midiCcSustain c d2) ∨ (∃ c k d2, i = .midiCcPanic c k d2) ∨ ∃ m, i = .hostMidi m) ∧
      (t.engine.numVoices ≠ s.engine.numVoices ∨ t.derived ≠ s.derived →
        i = .derive ∨ (∃ sr bs, i = .hostAlloc sr bs) ∨ ∃ id x, i = .hostSetParam id x) ∧
      (t.params ≠ s.params → ∃ id x, i = .hostSetParam id x ∧ ∀ j : Fin 20, id ≠ j.val → t.param j = s.param j) ∧
      (t.periodLow ≠ s.periodLow →
        (∃ v o, i = .nextSample v o) ∨ (∃ v o, i = .oscRender v o) ∨ (∃ v x, i = .voiceRender v x) ∨
          ∃ n, i = .hostRender n) ∧
      (t.memory ≠ s.memory → (∃ ch, i = .safetyClamp ch) ∨ ∃ n, i = .hostRender n)

/-- R343: P18 is read by no rule: with another value in it every instruction but a write to it does exactly the same. -/
def Obligations.VelocitySensitivityIsReadByNoRule : Prop :=
  ∀ (i : Instr) (s : State) (x : F32), (∀ y, i ≠ .hostSetParam 18 y) →
    exec i (withParam 18 x s) = mapNext (withParam 18 x) (exec i s)

/-- R431: two runs that start with RESET in allocated blocks of the same settings, and then take the same commands,
leave the same output words (what the earlier commands left in the voices, the LFO, the seed, the pitch bend and the
pedal does not matter). -/
def Obligations.RunsAfterResetGiveTheSameWords : Prop :=
  ∀ (s t : State) (cs : List Command), SameSettings s t → s.engine.allocated = true → s.memory = t.memory →
    match runCommands (.reset :: cs) s, runCommands (.reset :: cs) t with
    | .next s', .next t' => s'.memory = t'.memory
    | .fault f, .fault g => f = g
    | .refused f, .refused g => f = g
    | _, _ => False
end

