-- ==== Sys2Proof/Laws/Decoding.lean ====
section
/-! SUPPORT. The command word and its fields as numbers (30_encoding.md R130, R132): laws of the decoder. -/

namespace Sys2Proof

/-- `W = b0·2^16 + b1·2^8 + b2` (30_encoding.md R130). -/
theorem cmdWord_toNat (b0 b1 b2 : Byte) : (cmdWord b0 b1 b2).toNat = b0.toNat * 2 ^ 16 + b1.toNat * 2 ^ 8 + b2.toNat := by
  have h : (cmdWord b0 b1 b2).toNat = (b0.toNat <<< 8 ||| b1.toNat) <<< 8 ||| b2.toNat := by
    show (b0 ++ b1 ++ b2 : BitVec (8 + 8 + 8)).toNat = _
    rw [BitVec.toNat_append, BitVec.toNat_append]
  have h1 := b1.isLt
  have h2 := b2.isLt
  rw [h, ← Nat.shiftLeft_add_eq_or_of_lt h1, ← Nat.shiftLeft_add_eq_or_of_lt h2, Nat.shiftLeft_eq, Nat.shiftLeft_eq]
  omega

theorem statusByte_toNat (h c : Nibble) : (h ++ c : Byte).toNat = h.toNat * 16 + c.toNat := by
  have e : (h ++ c : Byte).toNat = h.toNat <<< 4 ||| c.toNat := by
    show (h ++ c : BitVec (4 + 4)).toNat = _
    rw [BitVec.toNat_append]
  rw [e, ← Nat.shiftLeft_add_eq_or_of_lt c.isLt, Nat.shiftLeft_eq]

theorem dataByte_toNat (x : BitVec 1) (d : Data7) : (x ++ d : Byte).toNat = x.toNat * 128 + d.toNat := by
  have e : (x ++ d : Byte).toNat = x.toNat <<< 7 ||| d.toNat := by
    show (x ++ d : BitVec (1 + 7)).toNat = _
    rw [BitVec.toNat_append]
  rw [e, ← Nat.shiftLeft_add_eq_or_of_lt d.isLt, Nat.shiftLeft_eq]

theorem CmdWord.h_toNat (w : CmdWord) : w.h.toNat = w.toNat / 2 ^ 20 % 16 := by
  simp [CmdWord.h, Nat.shiftRight_eq_div_pow]

theorem CmdWord.c_toNat (w : CmdWord) : w.c.toNat = w.toNat / 2 ^ 16 % 16 := by
  simp [CmdWord.c, Nat.shiftRight_eq_div_pow]

theorem CmdWord.d1_toNat (w : CmdWord) : w.d1.toNat = w.toNat / 2 ^ 8 % 128 := by
  simp [CmdWord.d1, Nat.shiftRight_eq_div_pow]

theorem CmdWord.d2_toNat (w : CmdWord) : w.d2.toNat = w.toNat % 128 := by
  simp [CmdWord.d2]

/-- The fields of a word put together from its parts, whatever the ignored bits. -/
theorem cmdWord_fields (h c : Nibble) (x y : BitVec 1) (d1 d2 : Data7) :
    (cmdWord (h ++ c) (x ++ d1) (y ++ d2)).h = h ∧ (cmdWord (h ++ c) (x ++ d1) (y ++ d2)).c = c ∧
      (cmdWord (h ++ c) (x ++ d1) (y ++ d2)).d1 = d1 ∧ (cmdWord (h ++ c) (x ++ d1) (y ++ d2)).d2 = d2 := by
  have e := cmdWord_toNat (h ++ c) (x ++ d1) (y ++ d2)
  rw [statusByte_toNat, dataByte_toNat, dataByte_toNat] at e
  have hh := h.isLt
  have hc := c.isLt
  have hd1 := d1.isLt
  have hd2 := d2.isLt
  have hx := x.isLt
  have hy := y.isLt
  refine ⟨?_, ?_, ?_, ?_⟩ <;> apply BitVec.eq_of_toNat_eq
  · rw [CmdWord.h_toNat, e]; omega
  · rw [CmdWord.c_toNat, e]; omega
  · rw [CmdWord.d1_toNat, e]; omega
  · rw [CmdWord.d2_toNat, e]; omega

/-- A message put together from its fields decodes by them: the row's instruction of a word with these fields. -/
theorem decode_message (h c : Nibble) (d1 d2 : Data7) :
    ∃ w : CmdWord, w.h = h ∧ w.c = c ∧ w.d1 = d1 ∧ w.d2 = d2 ∧ decode (message h c d1 d2) = .ok (decodeWord w) := by
  obtain ⟨e1, e2, e3, e4⟩ := cmdWord_fields h c 0#1 0#1 d1 d2
  exact ⟨_, e1, e2, e3, e4, rfl⟩

/-- The two data fields of `bend <b14>` hold the fourteen bits of `b14` (30_encoding.md R146). -/
theorem bend_fields (b : BitVec 14) :
    (BitVec.extractLsb' 0 7 b).toNat + 128 * (BitVec.extractLsb' 7 7 b).toNat = b.toNat := by
  have := b.isLt
  simp [BitVec.extractLsb'_toNat, Nat.shiftRight_eq_div_pow]
  omega

/-- What `decode` can answer. -/
theorem decode_cases (bytes : List Byte) :
    (∃ r, wordOfMessage bytes = .error r ∧ decode bytes = .error r) ∨
      ∃ w, wordOfMessage bytes = .ok w ∧ decode bytes = .ok (decodeWord w) := by
  unfold decode
  cases wordOfMessage bytes with
  | error r => exact .inl ⟨r, rfl, rfl⟩
  | ok w => exact .inr ⟨w, rfl, rfl⟩

end Sys2Proof
end

