-- ==== Sys2Proof/Laws/Float.lean ====
section
/-! SUPPORT. binary32 arithmetic: flushing, comparisons as comparisons of integers, NaN. -/

namespace Sys2Proof.F32

/-! ## Magnitudes -/

theorem units_lt (e : Fin 255) (f : BitVec 23) : units e f < 2 ^ 277 := by
  unfold units
  have hf : f.toNat < 2 ^ 23 := f.isLt
  split
  · calc f.toNat < 2 ^ 23 := hf
      _ < 2 ^ 277 := Nat.pow_lt_pow_right (by decide) (by decide)
  · have h1 : e.val - 1 ≤ 253 := by omega
    calc (2 ^ 23 + f.toNat) * 2 ^ (e.val - 1)
        < 2 ^ 24 * 2 ^ (e.val - 1) := Nat.mul_lt_mul_of_pos_right (by omega) (Nat.two_pow_pos _)
      _ ≤ 2 ^ 24 * 2 ^ 253 := Nat.mul_le_mul_left _ (Nat.pow_le_pow_right (by decide) h1)
      _ = 2 ^ 277 := by rw [← Nat.pow_add]

theorem signed_bounds (s : Bool) (e : Fin 255) (f : BitVec 23) :
    -(2 : Int) ^ 277 < signed s e f ∧ signed s e f < (2 : Int) ^ 277 := by
  have h := units_lt e f
  have h' : (units e f : Int) < 2 ^ 277 := by exact_mod_cast h
  unfold signed
  split <;> constructor <;> omega

/-! ## Flushing -/

@[simp] theorem flush_nan : flush .nan = .nan := rfl
@[simp] theorem flush_inf (s : Bool) : flush (.inf s) = .inf s := rfl

/-- What `flush` can do: nothing, or a subnormal under FTZ becomes the zero of its sign. -/
theorem flush_cases (x : F32) :
    flush x = x ∨ (Config.ftz = true ∧ ∃ s e f, x = .num s e f ∧ isSubnormal x = true ∧ flush x = zero s) := by
  unfold flush
  cases hs : isSubnormal x with
  | false => exact .inl rfl
  | true =>
    cases hf : Config.ftz with
    | false => exact .inl rfl
    | true =>
      cases x with
      | nan => exact .inl rfl
      | inf s => exact .inl rfl
      | num s e f => exact .inr ⟨rfl, s, e, f, rfl, rfl, rfl⟩

@[simp] theorem flush_zero (s : Bool) : flush (zero s) = zero s := rfl

@[simp] theorem flush_flush (x : F32) : flush (flush x) = flush x := by
  rcases flush_cases x with h | ⟨-, s, -, -, -, -, h⟩
  · rw [h, h]
  · rw [h, flush_zero]

theorem flush_of_normal {x : F32} (h : isSubnormal x = false) : flush x = x := by
  unfold flush
  rw [h]

@[simp] theorem isNaN_flush (x : F32) : isNaN (flush x) = isNaN x := by
  rcases flush_cases x with h | ⟨-, s, e, f, rfl, -, h⟩
  · rw [h]
  · rw [h]; rfl

@[simp] theorem isInf_flush (x : F32) : isInf (flush x) = isInf x := by
  rcases flush_cases x with h | ⟨-, s, e, f, rfl, -, h⟩
  · rw [h]
  · rw [h]; rfl

theorem units_zero_iff (e : Fin 255) (f : BitVec 23) : units e f = 0 ↔ e.val = 0 ∧ f = 0#23 := by
  unfold units
  split
  · rename_i h
    simp only [h, true_and]
    constructor
    · intro hf; exact BitVec.eq_of_toNat_eq (by simpa using hf)
    · rintro rfl; rfl
  · rename_i h
    constructor
    · intro h0
      have := Nat.two_pow_pos (e.val - 1)
      rcases Nat.mul_eq_zero.mp h0 with h1 | h1 <;> omega
    · exact fun hh => absurd hh.1 h

/-! ## Comparisons as integer comparisons -/

/-- The place of a value in the order, as an integer: its value in units of 2^-149, infinities outside every
finite value; flushed as a comparison's operand is. -/
def key (x : F32) : Int :=
  match flush x with
  | .nan => 0
  | .inf s => if s then -(2 ^ 277) else 2 ^ 277
  | .num s e f => signed s e f

theorem lt_iff_key (x y : F32) : lt x y = true ↔ isNaN x = false ∧ isNaN y = false ∧ key x < key y := by
  rw [← isNaN_flush x, ← isNaN_flush y]
  unfold lt key
  have p : (0 : Int) < 2 ^ 277 := by positivity
  cases flush x with
  | nan => simp [ltExact, isNaN]
  | inf s =>
    cases flush y with
    | nan => simp [ltExact, isNaN]
    | inf t => cases s <;> cases t <;> simp [ltExact, isNaN]
    | num t e f =>
      have := signed_bounds t e f
      cases s <;> simp [ltExact, isNaN] <;> omega
  | num s e f =>
    cases flush y with
    | nan => simp [ltExact, isNaN]
    | inf t =>
      have := signed_bounds s e f
      cases t <;> simp [ltExact, isNaN] <;> omega
    | num t e' f' => simp [ltExact, isNaN]

theorem le_iff_key (x y : F32) : le x y = true ↔ isNaN x = false ∧ isNaN y = false ∧ key x ≤ key y := by
  rw [← isNaN_flush x, ← isNaN_flush y]
  unfold le key
  have p : (0 : Int) < 2 ^ 277 := by positivity
  cases flush x with
  | nan => simp [leExact, isNaN]
  | inf s =>
    cases flush y with
    | nan => simp [leExact, isNaN]
    | inf t => cases s <;> cases t <;> simp [leExact, isNaN]
    | num t e f =>
      have := signed_bounds t e f
      cases s <;> simp [leExact, isNaN] <;> omega
  | num s e f =>
    cases flush y with
    | nan => simp [leExact, isNaN]
    | inf t =>
      have := signed_bounds s e f
      cases t <;> simp [leExact, isNaN] <;> omega
    | num t e' f' => simp [leExact, isNaN]

@[simp] theorem lt_nan_left (y : F32) : lt .nan y = false := rfl
@[simp] theorem le_nan_left (y : F32) : le .nan y = false := rfl

@[simp] theorem lt_nan_right (x : F32) : lt x .nan = false := by
  rw [Bool.eq_false_iff]
  intro h
  exact absurd ((lt_iff_key x .nan).mp h).2.1 (by decide)

@[simp] theorem le_nan_right (x : F32) : le x .nan = false := by
  rw [Bool.eq_false_iff]
  intro h
  exact absurd ((le_iff_key x .nan).mp h).2.1 (by decide)

theorem lt_irrefl (x : F32) : lt x x = false := by
  rw [Bool.eq_false_iff]
  intro h
  have := ((lt_iff_key x x).mp h).2.2
  omega

/-! ## NaN absorbs -/

@[simp] theorem add_nan_left (y : F32) : add .nan y = .nan := rfl
@[simp] theorem mul_nan_left (y : F32) : mul .nan y = .nan := rfl
@[simp] theorem sub_nan_left (y : F32) : sub .nan y = .nan := rfl
@[simp] theorem div_nan_left (y : F32) : div .nan y = .nan := rfl

@[simp] theorem add_nan_right (x : F32) : add x .nan = .nan := by
  unfold add; cases flush x <;> rfl
@[simp] theorem mul_nan_right (x : F32) : mul x .nan = .nan := by
  unfold mul; cases flush x <;> rfl
@[simp] theorem sub_nan_right (x : F32) : sub x .nan = .nan := by
  unfold sub; cases flush x <;> rfl
@[simp] theorem div_nan_right (x : F32) : div x .nan = .nan := by
  unfold div; cases flush x <;> rfl

/-! ## Results are flushed, negation is an involution -/

@[simp] theorem flush_add (x y : F32) : flush (add x y) = add x y := by simp [add]
@[simp] theorem flush_sub (x y : F32) : flush (sub x y) = sub x y := by simp [sub]
@[simp] theorem flush_mul (x y : F32) : flush (mul x y) = mul x y := by simp [mul]
@[simp] theorem flush_div (x y : F32) : flush (div x y) = div x y := by simp [div]

@[simp] theorem neg_neg (x : F32) : neg (neg x) = x := by cases x <;> simp [neg]

theorem signed_neg (s : Bool) (e : Fin 255) (f : BitVec 23) : signed (!s) e f = -signed s e f := by
  cases s <;> simp [signed]

/-! ## Constants -/

theorem zero_eq : K.zero = zero false := by decide +kernel
theorem one_eq : K.one = .num false 127 0 := by decide +kernel
theorem two_eq : K.two = .num false 128 0 := by decide +kernel
theorem minusOne_eq : K.minusOne = .num true 127 0 := by decide +kernel
theorem minusTwo_eq : K.minusTwo = .num true 128 0 := by decide +kernel

theorem key_zero : key K.zero = 0 := by decide +kernel
theorem key_one : key K.one = 2 ^ 149 := by decide +kernel
theorem key_two : key K.two = 2 ^ 150 := by decide +kernel
theorem key_minusOne : key K.minusOne = -2 ^ 149 := by decide +kernel
theorem key_minusTwo : key K.minusTwo = -2 ^ 150 := by decide +kernel
theorem key_hundred : key K.hundred = 100 * 2 ^ 149 := by decide +kernel

end Sys2Proof.F32
end

