-- ==== Sys2Proof/Laws/Rounding.lean ====
section
/-! SUPPORT. The rounding of 00_scope.md R10: `F32.round` gives the nearest binary32 value, ties to even. -/

namespace Sys2Proof.F32

open Sys2Proof.Safety

/-! ## The nearest integer -/

/-- `nearestEven a d` is within half of `a / d`, and even where it is exactly half away. -/
theorem nearestEven_spec (a d : Nat) (hd : 0 < d) :
    2 * a ≤ 2 * (nearestEven a d * d) + d ∧ 2 * (nearestEven a d * d) ≤ 2 * a + d ∧
      (2 * a = 2 * (nearestEven a d * d) + d ∨ 2 * (nearestEven a d * d) = 2 * a + d → nearestEven a d % 2 = 0) := by
  have h := Nat.div_add_mod a d
  have hr := Nat.mod_lt a hd
  unfold nearestEven
  generalize a / d = q at *
  generalize a % d = r at *
  have e1 : (q + 1) * d = d * q + d := by ring
  have e2 : q * d = d * q := by ring
  simp only
  split
  · rw [e2]; omega
  · split
    · rw [e1]; omega
    · rcases Nat.mod_two_eq_zero_or_one q with h2 | h2 <;> rw [h2]
      · rw [Nat.add_zero, e2]; omega
      · rw [e1]; omega

/-! ## Finite values as multiples of a power of two -/

/-- A finite value is a whole multiple of `2^s` units or smaller than `2^(23+s)` units. -/
theorem signed_multiple_or_small (s : Nat) (neg : Bool) (e : Fin 255) (f : BitVec 23) :
    (∃ m : Int, signed neg e f = m * 2 ^ s) ∨ |signed neg e f| < 2 ^ (23 + s) := by
  have hu : (∃ m : Nat, units e f = m * 2 ^ s) ∨ units e f < 2 ^ (23 + s) := by
    have hf : f.toNat < 2 ^ 23 := f.isLt
    unfold units
    split
    · exact .inr (lt_of_lt_of_le hf (Nat.pow_le_pow_right (by decide) (by omega)))
    · by_cases h : s ≤ e.val - 1
      · refine .inl ⟨(2 ^ 23 + f.toNat) * 2 ^ (e.val - 1 - s), ?_⟩
        rw [Nat.mul_assoc, ← Nat.pow_add]
        congr 2
        omega
      · right
        calc (2 ^ 23 + f.toNat) * 2 ^ (e.val - 1)
            < 2 ^ 24 * 2 ^ (e.val - 1) := Nat.mul_lt_mul_of_pos_right (by omega) (Nat.two_pow_pos _)
          _ = 2 ^ (24 + (e.val - 1)) := by rw [← Nat.pow_add]
          _ ≤ 2 ^ (23 + s) := Nat.pow_le_pow_right (by decide) (by omega)
  rcases hu with ⟨m, hm⟩ | hm
  · refine .inl ?_
    cases neg
    · exact ⟨m, by simp [signed, hm]⟩
    · exact ⟨-m, by simp [signed, hm]⟩
  · refine .inr ?_
    have : |signed neg e f| = (units e f : Int) := by
      cases neg <;> simp [signed]
    rw [this]
    exact_mod_cast hm

/-! ## The nearest multiple is the nearest value -/

/-- A multiple of `2^s` within half a step of `q`, where `q` is at least `2^(23+s)` unless `s = 0`. -/
theorem nearest_of_multiple {q : ℚ} {n s : Nat} (hq : 0 ≤ q) (hbig : s = 0 ∨ (2 : ℚ) ^ (23 + s) ≤ q)
    (hlo : 2 * q ≤ 2 * (n * 2 ^ s) + 2 ^ s) (hhi : 2 * (n * 2 ^ s : ℚ) ≤ 2 * q + 2 ^ s)
    (htie : 2 * q = 2 * (n * 2 ^ s) + 2 ^ s ∨ 2 * (n * 2 ^ s : ℚ) = 2 * q + 2 ^ s → n % 2 = 0)
    (neg : Bool) (e : Fin 255) (f : BitVec 23) :
    |q - n * 2 ^ s| ≤ |q - signed neg e f| ∧
      (|q - n * 2 ^ s| = |q - signed neg e f| → (signed neg e f : ℚ) ≠ n * 2 ^ s → n % 2 = 0) := by
  have hp : (0 : ℚ) < 2 ^ s := by positivity
  have key : ∀ m : Int, |q - n * 2 ^ s| ≤ |q - m * 2 ^ s| ∧
      (|q - n * 2 ^ s| = |q - m * 2 ^ s| → ((m : ℚ) * 2 ^ s) ≠ n * 2 ^ s → n % 2 = 0) := by
    intro m
    by_cases hmn : m = n
    · subst hmn; simp
    · have hstep : (2 : ℚ) ^ s ≤ |(m : ℚ) * 2 ^ s - n * 2 ^ s| := by
        rw [← sub_mul, abs_mul, abs_of_pos hp]
        have : (1 : ℚ) ≤ |(m : ℚ) - n| := by
          have h1 : (1 : Int) ≤ |m - (n : Int)| := Int.one_le_abs (sub_ne_zero.mpr hmn)
          exact_mod_cast h1
        nlinarith
      have hdist : |q - n * 2 ^ s| ≤ 2 ^ s / 2 := by
        rw [abs_le]; constructor <;> linarith
      have htri : |(m : ℚ) * 2 ^ s - n * 2 ^ s| ≤ |q - n * 2 ^ s| + |q - m * 2 ^ s| := by
        have := abs_sub (q - n * 2 ^ s) (q - m * 2 ^ s)
        calc |(m : ℚ) * 2 ^ s - n * 2 ^ s| = |(q - n * 2 ^ s) - (q - m * 2 ^ s)| := by congr 1; ring
          _ ≤ _ := this
      refine ⟨by linarith, fun he _ => htie ?_⟩
      have : |q - n * 2 ^ s| = 2 ^ s / 2 := by linarith
      rcases abs_eq (by positivity) |>.mp this with h | h
      · left; linarith
      · right; linarith
  rcases signed_multiple_or_small s neg e f with ⟨m, hm⟩ | hsmall
  · have : (signed neg e f : ℚ) = m * 2 ^ s := by rw [hm]; push_cast; ring
    rw [this]
    exact key m
  · rcases hbig with rfl | hbig
    · have := key (signed neg e f)
      simpa using this
    · have h1 : (signed neg e f : ℚ) < 2 ^ (23 + s) := by
        have := lt_of_le_of_lt (le_abs_self _) hsmall
        exact_mod_cast this
      have h2 := (key (2 ^ 23)).1
      have e23 : ((2 ^ 23 : Int) : ℚ) * 2 ^ s = 2 ^ (23 + s) := by rw [pow_add]; norm_num
      rw [e23, abs_of_nonneg (by linarith : (0 : ℚ) ≤ q - 2 ^ (23 + s))] at h2
      have h3 : |q - signed neg e f| = q - signed neg e f := abs_of_nonneg (by linarith)
      rw [h3]
      exact ⟨by linarith, fun he => absurd he (by linarith)⟩

/-! ## Rounding -/

theorem excess_spec (a b : Nat) (hb : 0 < b) :
    (excess a b = 0 ∨ b * 2 ^ (23 + excess a b) ≤ a) ∧ a < b * 2 ^ (24 + excess a b) := by
  unfold excess
  by_cases h0 : a / b = 0
  · have : a < b := by
      rcases Nat.div_eq_zero_iff.mp h0 with h | h <;> omega
    rw [h0]
    exact ⟨.inl (by decide), lt_of_lt_of_le this (Nat.le_mul_of_pos_right _ (Nat.two_pow_pos _))⟩
  · have h1 := Nat.log2_self_le h0
    have h2 := Nat.lt_log2_self (n := a / b)
    constructor
    · by_cases h : Nat.log2 (a / b) ≤ 23
      · left; omega
      · right
        have : 23 + (Nat.log2 (a / b) - 23) = Nat.log2 (a / b) := by omega
        rw [this]
        calc b * 2 ^ Nat.log2 (a / b) ≤ b * (a / b) := Nat.mul_le_mul_left _ h1
          _ ≤ a := Nat.mul_div_le _ _
    · have h3 : a / b < 2 ^ (24 + (Nat.log2 (a / b) - 23)) :=
        lt_of_lt_of_le h2 (Nat.pow_le_pow_right (by decide) (by omega))
      have := (Nat.div_lt_iff_lt_mul hb).mp h3
      rw [Nat.mul_comm]; exact this

/-- What `pack` gives: the value `n · 2^s`, or infinity from `2^277` up. -/
theorem pack_spec (neg : Bool) (n s : Nat) (hn : n ≤ 2 ^ 24) (hs : s = 0 ∨ 2 ^ 23 ≤ n) :
    (2 ^ 277 ≤ n * 2 ^ s ∧ pack neg n s = .inf neg) ∨
      (n * 2 ^ s < 2 ^ 277 ∧ ∃ e f, pack neg n s = .num neg e f ∧ units e f = n * 2 ^ s ∧ f.toNat % 2 = n % 2) := by
  have p277 : (2 : Nat) ^ 277 = 2 ^ 23 * 2 ^ 254 := by rw [← Nat.pow_add]
  have p277' : (2 : Nat) ^ 277 = 2 ^ 24 * 2 ^ 253 := by rw [← Nat.pow_add]
  unfold pack
  split
  · rename_i h
    have hs0 : s = 0 := by omega
    subst hs0
    refine .inr ⟨?_, 0, BitVec.ofNat 23 n, ?_, ?_, ?_⟩
    · rw [p277]; have : 1 ≤ 2 ^ 254 := Nat.one_le_two_pow; nlinarith
    · simp [ofExpo]
    · simpa [units] using h
    · simp
  · split
    · rename_i h1 h2
      unfold ofExpo
      split
      · rename_i h3
        refine .inr ⟨?_, ⟨s + 1, h3⟩, BitVec.ofNat 23 (n - 2 ^ 23), rfl, ?_, ?_⟩
        · rw [p277']
          exact Nat.mul_lt_mul_of_lt_of_le h2 (Nat.pow_le_pow_right (by decide) (by omega)) (Nat.two_pow_pos _)
        · have h4 : (n - 2 ^ 23) % 2 ^ 23 = n - 2 ^ 23 := Nat.mod_eq_of_lt (by omega)
          have h5 : 2 ^ 23 + (n - 2 ^ 23) = n := by omega
          simp only [units, BitVec.toNat_ofNat, h4, h5]
          simp
        · have h4 : (n - 2 ^ 23) % 2 ^ 23 = n - 2 ^ 23 := Nat.mod_eq_of_lt (by omega)
          simp only [BitVec.toNat_ofNat, h4]
          omega
      · rename_i h3
        refine .inl ⟨?_, rfl⟩
        rw [p277]
        exact Nat.mul_le_mul (by omega) (Nat.pow_le_pow_right (by decide) (by omega))
    · rename_i h1 h2
      have hn24 : n = 2 ^ 24 := by omega
      subst hn24
      unfold ofExpo
      split
      · rename_i h3
        refine .inr ⟨?_, ⟨s + 2, h3⟩, BitVec.ofNat 23 0, rfl, ?_, ?_⟩
        · rw [p277']
          exact Nat.mul_lt_mul_of_pos_left (Nat.pow_lt_pow_right (by decide) (by omega)) (by decide)
        · have e1 : s + 2 - 1 = s + 1 := by omega
          simp [units, e1, pow_succ]
          ring
        · simp
      · rename_i h3
        refine .inl ⟨?_, rfl⟩
        rw [p277']
        exact Nat.mul_le_mul (le_refl _) (Nat.pow_le_pow_right (by decide) (by omega))

/-- Mirroring a rounding problem about zero. -/
theorem NearestEven.neg {q : ℚ} {s : Bool} {e : Fin 255} {f : BitVec 23} (h : NearestEven q s e f) :
    NearestEven (-q) (!s) e f := by
  intro s' e' f'
  have h' := h (!s') e' f'
  have m1 : |(-q) - signed (!s) e f| = |q - signed s e f| := by
    rw [signed_neg, ← abs_neg]; congr 1; push_cast; ring
  have m2 : |(-q) - signed s' e' f'| = |q - signed (!s') e' f'| := by
    rw [signed_neg, ← abs_neg]; congr 1; push_cast; ring
  rw [m1, m2]
  refine ⟨h'.1, fun he hne => h'.2 he fun h3 => hne ?_⟩
  have : signed s' e' f' = -signed (!s') e' f' := by rw [signed_neg]; ring
  rw [this, h3, signed_neg]

/-- `round neg a b` is `±a/b` rounded to nearest, ties to even. -/
theorem round_spec (neg : Bool) (a b : Nat) (hb : 0 < b) :
    RoundedFrom (if neg then -((a : ℚ) / b) else (a : ℚ) / b) neg (round neg a b) := by
  obtain ⟨hlo, hhi⟩ := excess_spec a b hb
  set s := excess a b with hs
  have hd : 0 < b * 2 ^ s := Nat.mul_pos hb (Nat.two_pow_pos s)
  obtain ⟨n1, n2, n3⟩ := nearestEven_spec a (b * 2 ^ s) hd
  set n := nearestEven a (b * 2 ^ s) with hn
  have hbq : (0 : ℚ) < b := by exact_mod_cast hb
  have hq : (0 : ℚ) ≤ (a : ℚ) / b := by positivity
  have eq1 : (a : ℚ) = (a : ℚ) / b * b := by field_simp
  have c1 : 2 * ((a : ℚ) / b) ≤ 2 * (n * 2 ^ s) + 2 ^ s := by
    have : (2 * a : ℚ) ≤ 2 * (n * (b * 2 ^ s)) + b * 2 ^ s := by exact_mod_cast n1
    rw [eq1] at this
    have h2 : (2 * ((a : ℚ) / b)) * b ≤ (2 * (n * 2 ^ s) + 2 ^ s) * b := by nlinarith
    exact le_of_mul_le_mul_right h2 hbq
  have c2 : 2 * (n * 2 ^ s : ℚ) ≤ 2 * ((a : ℚ) / b) + 2 ^ s := by
    have : (2 * (n * (b * 2 ^ s)) : ℚ) ≤ 2 * a + b * 2 ^ s := by exact_mod_cast n2
    rw [eq1] at this
    have h2 : (2 * (n * 2 ^ s) : ℚ) * b ≤ (2 * ((a : ℚ) / b) + 2 ^ s) * b := by nlinarith
    exact le_of_mul_le_mul_right h2 hbq
  have c3 : 2 * ((a : ℚ) / b) = 2 * (n * 2 ^ s) + 2 ^ s ∨ 2 * (n * 2 ^ s : ℚ) = 2 * ((a : ℚ) / b) + 2 ^ s →
      n % 2 = 0 := by
    intro h
    apply n3
    rcases h with h | h
    · left
      have : (2 * a : ℚ) = 2 * (n * (b * 2 ^ s)) + b * 2 ^ s := by
        rw [eq1, ← mul_assoc, h]; ring
      exact_mod_cast this
    · right
      have : (2 * (n * (b * 2 ^ s)) : ℚ) = 2 * a + b * 2 ^ s := by
        have h4 : (2 * (n * (b * 2 ^ s)) : ℚ) = 2 * (n * 2 ^ s) * b := by ring
        rw [h4, h, eq1]; ring_nf; field_simp
      exact_mod_cast this
  have hbig : s = 0 ∨ (2 : ℚ) ^ (23 + s) ≤ (a : ℚ) / b := by
    rcases hlo with h | h
    · exact .inl h
    · right
      rw [le_div_iff₀ hbq]
      have : ((b * 2 ^ (23 + s) : Nat) : ℚ) ≤ a := by exact_mod_cast h
      push_cast at this; linarith
  have hn24 : n ≤ 2 ^ 24 := by
    by_contra hc
    have h1 : b * 2 ^ (24 + s) + b * 2 ^ s ≤ n * (b * 2 ^ s) := by
      have : (2 ^ 24 + 1) * (b * 2 ^ s) ≤ n * (b * 2 ^ s) := Nat.mul_le_mul_right _ (by omega)
      calc b * 2 ^ (24 + s) + b * 2 ^ s = (2 ^ 24 + 1) * (b * 2 ^ s) := by rw [Nat.pow_add]; ring
        _ ≤ _ := this
    omega
  have hn23 : s = 0 ∨ 2 ^ 23 ≤ n := by
    rcases hlo with h | h
    · exact .inl h
    · right
      by_contra hc
      have h1 : n * (b * 2 ^ s) + b * 2 ^ s ≤ b * 2 ^ (23 + s) := by
        have : (n + 1) * (b * 2 ^ s) ≤ 2 ^ 23 * (b * 2 ^ s) := Nat.mul_le_mul_right _ (by omega)
        calc n * (b * 2 ^ s) + b * 2 ^ s = (n + 1) * (b * 2 ^ s) := by ring
          _ ≤ 2 ^ 23 * (b * 2 ^ s) := this
          _ = _ := by rw [Nat.pow_add]; ring
      omega
  have hpack := pack_spec neg n s hn24 hn23
  have habs : |if neg then -((a : ℚ) / b) else (a : ℚ) / b| = (a : ℚ) / b := by
    cases neg <;> simp [abs_of_nonneg hq]
  have hround : round neg a b = pack neg n s := rfl
  unfold RoundedFrom
  rw [habs, hround]
  have p277 : (2 : ℚ) ^ 277 = 2 ^ 24 * 2 ^ 253 := by rw [← pow_add]
  have p252 : (2 : ℚ) ^ 253 = 2 * 2 ^ 252 := by rw [← pow_succ']
  rcases hpack with ⟨hinf, hp⟩ | ⟨hfin, e, f, hp, hu, hf⟩
  · have hc : (2 : ℚ) ^ 277 - 2 ^ 252 ≤ (a : ℚ) / b := by
      have h1 : (2 : ℚ) ^ 277 ≤ n * 2 ^ s := by exact_mod_cast hinf
      by_cases hs253 : s ≤ 253
      · have h2 : (2 : ℚ) ^ s ≤ 2 ^ 253 := pow_le_pow_right₀ (by norm_num) hs253
        linarith
      · rcases hbig with h | h
        · omega
        · have h2 : (2 : ℚ) ^ 277 ≤ 2 ^ (23 + s) := pow_le_pow_right₀ (by norm_num) (by omega)
          have : (0 : ℚ) < 2 ^ 252 := by positivity
          linarith
    rw [if_pos hc]
    exact hp
  · have hc : ¬ (2 : ℚ) ^ 277 - 2 ^ 252 ≤ (a : ℚ) / b := by
      intro hc
      have h1 : (n * 2 ^ s : ℚ) < 2 ^ 277 := by exact_mod_cast hfin
      have hs253 : s ≤ 253 := by
        by_contra h
        have hn' := hn23.resolve_left (by omega)
        have : 2 ^ 277 ≤ n * 2 ^ s :=
          calc 2 ^ 277 = 2 ^ 23 * 2 ^ 254 := by rw [← Nat.pow_add]
            _ ≤ n * 2 ^ s := Nat.mul_le_mul hn' (Nat.pow_le_pow_right (by decide) (by omega))
        omega
      have hup : (a : ℚ) / b < 2 ^ (24 + s) := by
        rw [div_lt_iff₀ hbq]
        have : (a : ℚ) < ((b * 2 ^ (24 + s) : Nat) : ℚ) := by exact_mod_cast hhi
        push_cast at this; linarith
      have hs' : s = 253 := by
        by_contra h
        have h2 : (2 : ℚ) ^ (24 + s) ≤ 2 ^ 276 := pow_le_pow_right₀ (by norm_num) (by omega)
        have h3 : (2 : ℚ) ^ 277 = 2 * 2 ^ 276 := by rw [← pow_succ']
        have h4 : (2 : ℚ) ^ 252 ≤ 2 ^ 276 := pow_le_pow_right₀ (by norm_num) (by norm_num)
        rw [h3] at hc
        have h5 := lt_of_le_of_lt hc (lt_of_lt_of_le hup h2)
        generalize (2 : ℚ) ^ 276 = Q at h4 h5
        generalize (2 : ℚ) ^ 252 = P at h4 h5
        linarith only [h4, h5]
      have hn1 : n ≤ 2 ^ 24 - 1 := by
        by_contra h
        have : n = 2 ^ 24 := by omega
        rw [this, hs'] at hfin
        exact absurd hfin (by decide +kernel)
      have hn2 : (n : ℚ) ≤ 2 ^ 24 - 1 := by
        have : ((n : Nat) : ℚ) ≤ ((2 ^ 24 - 1 : Nat) : ℚ) := by exact_mod_cast hn1
        norm_num at this ⊢; linarith
      rw [hs'] at c1 c3
      obtain ⟨P, hP⟩ : ∃ P : ℚ, P = 2 ^ 252 := ⟨_, rfl⟩
      have hPpos : 0 < P := by rw [hP]; positivity
      have e277 : (2 : ℚ) ^ 277 = 2 ^ 25 * P := by rw [hP, ← pow_add]
      rw [e277, ← hP] at hc
      rw [p252, ← hP] at c1 c3
      have h5 : (n : ℚ) * P ≤ (2 ^ 24 - 1) * P := mul_le_mul_of_nonneg_right hn2 hPpos.le
      have h6 : 2 * ((a : ℚ) / b) = 2 * (n * (2 * P)) + 2 * P := by
        apply le_antisymm c1
        linarith
      have h7 := c3 (.inl h6)
      have h8 : (n : ℚ) * P = (2 ^ 24 - 1) * P := by linarith
      have h9 : (n : ℚ) = 2 ^ 24 - 1 := mul_right_cancel₀ hPpos.ne' h8
      have h10 : n = 2 ^ 24 - 1 := by
        have : (n : ℚ) = ((2 ^ 24 - 1 : Nat) : ℚ) := by rw [h9]; norm_num
        exact_mod_cast this
      rw [h10] at h7
      exact absurd h7 (by decide)
    rw [if_neg hc]
    refine ⟨e, f, hp, ?_⟩
    have hne : NearestEven ((a : ℚ) / b) false e f := by
      intro s' e' f'
      have h1 : ((signed false e f : Int) : ℚ) = n * 2 ^ s := by
        simp only [signed]; rw [hu]; push_cast; rfl
      have := nearest_of_multiple hq hbig c1 c2 c3 s' e' f'
      rw [h1]
      refine ⟨this.1, fun h2 h3 => ?_⟩
      rw [hf]
      exact this.2 h2 (by rw [← h1]; exact_mod_cast h3)
    cases neg
    · simpa using hne
    · simpa using NearestEven.neg hne

/-! ## Exact results -/

theorem units_le (e : Fin 255) (f : BitVec 23) : units e f ≤ (2 ^ 24 - 1) * 2 ^ 253 := by
  have hf : f.toNat < 2 ^ 23 := f.isLt
  unfold units
  split
  · calc f.toNat ≤ (2 ^ 24 - 1) * 1 := by omega
      _ ≤ (2 ^ 24 - 1) * 2 ^ 253 := Nat.mul_le_mul_left _ Nat.one_le_two_pow
  · exact Nat.mul_le_mul (by omega) (Nat.pow_le_pow_right (by decide) (by omega))

/-- A magnitude has one exponent and one fraction. -/
theorem units_inj {e e' : Fin 255} {f f' : BitVec 23} (h : units e f = units e' f') : e = e' ∧ f = f' := by
  have hf : f.toNat < 2 ^ 23 := f.isLt
  have hf' : f'.toNat < 2 ^ 23 := f'.isLt
  have hlt : ∀ {a b : Fin 255} {x y : BitVec 23}, a.val < b.val → units a x < units b y := by
    intro a b x y hab
    have hx : x.toNat < 2 ^ 23 := x.isLt
    unfold units
    rw [if_neg (by omega : ¬ b.val = 0)]
    split
    · calc x.toNat < 2 ^ 23 * 1 := by omega
        _ ≤ (2 ^ 23 + y.toNat) * 2 ^ (b.val - 1) := Nat.mul_le_mul (by omega) Nat.one_le_two_pow
    · calc (2 ^ 23 + x.toNat) * 2 ^ (a.val - 1)
          < 2 ^ 24 * 2 ^ (a.val - 1) := Nat.mul_lt_mul_of_pos_right (by omega) (Nat.two_pow_pos _)
        _ = 2 ^ 23 * 2 ^ (a.val - 1 + 1) := by rw [Nat.pow_succ]; ring
        _ ≤ (2 ^ 23 + y.toNat) * 2 ^ (b.val - 1) :=
            Nat.mul_le_mul (by omega) (Nat.pow_le_pow_right (by decide) (by omega))
  have he : e = e' := by
    rcases lt_trichotomy e.val e'.val with h1 | h1 | h1
    · exact absurd h (hlt h1).ne
    · exact Fin.ext h1
    · exact absurd h.symm (hlt h1).ne
  subst he
  refine ⟨rfl, BitVec.eq_of_toNat_eq ?_⟩
  unfold units at h
  split at h
  · exact h
  · have := Nat.eq_of_mul_eq_mul_right (Nat.two_pow_pos _) h
    omega

/-- A result that a finite value holds exactly is that value. -/
theorem round_exact (neg : Bool) (a b : Nat) (hb : 0 < b) (e : Fin 255) (f : BitVec 23) (h : a = units e f * b) :
    round neg a b = .num neg e f := by
  have hq : (a : ℚ) / b = units e f := by
    rw [h]; push_cast
    have : (b : ℚ) ≠ 0 := by exact_mod_cast hb.ne'
    field_simp
  have hs := round_spec neg a b hb
  rw [hq] at hs
  have habs : |if neg then -(units e f : ℚ) else units e f| = units e f := by
    cases neg <;> simp
  have hlt : ¬ (2 : ℚ) ^ 277 - 2 ^ 252 ≤ units e f := by
    have h1 : (units e f : ℚ) ≤ ((2 ^ 24 - 1) * 2 ^ 253 : Nat) := by exact_mod_cast units_le e f
    have h2 : ((((2 ^ 24 - 1) * 2 ^ 253 : Nat)) : ℚ) = (2 ^ 24 - 1) * 2 ^ 253 := by
      rw [Nat.cast_mul, Nat.cast_pow]; norm_num
    rw [h2] at h1
    have e1 : (2 : ℚ) ^ 277 = 2 ^ 25 * 2 ^ 252 := by rw [← pow_add]
    have e2 : (2 : ℚ) ^ 253 = 2 * 2 ^ 252 := by rw [← pow_succ']
    have hp : (0 : ℚ) < 2 ^ 252 := by positivity
    rw [e1]; rw [e2] at h1
    generalize (2 : ℚ) ^ 252 = P at *
    intro hc
    linarith only [hc, h1, hp]
  unfold RoundedFrom at hs
  rw [habs, if_neg hlt] at hs
  obtain ⟨e', f', hr, hn⟩ := hs
  have h1 := (hn neg e f).1
  have h2 : (signed neg e f : ℚ) = if neg then -(units e f : ℚ) else units e f := by
    cases neg <;> simp [signed]
  rw [← h2, sub_self, abs_zero] at h1
  have h3 : (signed neg e f : ℚ) - signed neg e' f' = 0 := abs_eq_zero.mp (le_antisymm h1 (abs_nonneg _))
  have h4 : signed neg e f = signed neg e' f' := by
    have := sub_eq_zero.mp h3
    exact_mod_cast this
  have h5 : units e f = units e' f' := by
    cases neg <;> simpa [signed] using h4
  obtain ⟨rfl, rfl⟩ := units_inj h5
  exact hr

/-- What `pack` gives below the overflow bound. -/
theorem exists_units_of_pack (n s : Nat) (hn : n ≤ 2 ^ 24) (hs : s = 0 ∨ 2 ^ 23 ≤ n) (hs' : s ≤ 252) :
    ∃ e f, units e f = n * 2 ^ s := by
  rcases pack_spec false n s hn hs with ⟨h, -⟩ | ⟨-, e, f, -, hu, -⟩
  · have : n * 2 ^ s < 2 ^ 277 := by
      calc n * 2 ^ s ≤ 2 ^ 24 * 2 ^ 252 := Nat.mul_le_mul hn (Nat.pow_le_pow_right (by decide) hs')
        _ = 2 ^ 276 := by rw [← Nat.pow_add]
        _ < 2 ^ 277 := Nat.pow_lt_pow_right (by decide) (by decide)
    exact absurd h (not_le.mpr this)
  · exact ⟨e, f, hu⟩

/-- A whole number up to `2^24` of a power of two is a finite value. -/
theorem exists_units (s n : Nat) (hn : n ≤ 2 ^ 24) (hs : s ≤ 252) : ∃ e f, units e f = n * 2 ^ s := by
  induction s generalizing n with
  | zero => exact exists_units_of_pack n 0 hn (.inl rfl) hs
  | succ s ih =>
    by_cases h23 : 2 ^ 23 ≤ n
    · exact exists_units_of_pack n (s + 1) hn (.inr h23) hs
    · obtain ⟨e, f, h⟩ := ih (2 * n) (by omega) (by omega)
      exact ⟨e, f, by rw [h, Nat.pow_succ]; ring⟩

end Sys2Proof.F32
end

