-- ==== Sys2Proof/Laws/Doubling.lean ====
section
/-! SUPPORT. Doubling a binary32 value is exact, or overflows to infinity (45_engine_midi.md R339, corner case); so the
doubling loop settles. -/

namespace Sys2Proof.F32

open Sys2Proof.Safety

/-- A magnitude doubled is a finite magnitude, unless the exponent is the greatest. -/
theorem exists_double (e : Fin 255) (f : BitVec 23) (h : e.val < 254) : ∃ e' f', units e' f' = 2 * units e f := by
  by_cases h0 : e.val = 0
  · have hf : f.toNat < 2 ^ 23 := f.isLt
    obtain ⟨e', f', hu⟩ := exists_units 0 (2 * f.toNat) (by omega) (by decide)
    exact ⟨e', f', by rw [hu]; simp [units, h0]⟩
  · refine ⟨⟨e.val + 1, by omega⟩, f, ?_⟩
    have he : e.val + 1 - 1 = e.val - 1 + 1 := by omega
    simp only [units, if_neg h0, Nat.add_one_ne_zero, if_false, he, Nat.pow_succ]
    ring

/-- The exact sum of a finite value with itself, rounded: twice the value, or infinity. -/
theorem addExact_self (s : Bool) (e : Fin 255) (f : BitVec 23) :
    addExact (.num s e f) (.num s e f) = .inf s ∨
      ∃ e' f', addExact (.num s e f) (.num s e f) = .num s e' f' ∧ units e' f' = 2 * units e f := by
  have hz : signed s e f + signed s e f = if s then -(2 * (units e f : Int)) else 2 * (units e f : Int) := by
    cases s <;> simp [signed] <;> ring
  by_cases h0 : units e f = 0
  · refine .inr ⟨0, 0, ?_, by rw [h0]; rfl⟩
    have : signed s e f + signed s e f = 0 := by rw [hz, h0]; cases s <;> rfl
    simp [addExact, this, zero]
  · have hne : signed s e f + signed s e f ≠ 0 := by rw [hz]; cases s <;> simp <;> omega
    have hsgn : decide (signed s e f + signed s e f < 0) = s := by
      rw [hz]; cases s
      · simp
      · simp; omega
    have habs : (signed s e f + signed s e f).natAbs = 2 * units e f := by
      rw [hz]; cases s <;> simp <;> omega
    have hadd : addExact (.num s e f) (.num s e f) = round s (2 * units e f) 1 := by
      simp only [addExact, if_neg hne, hsgn, habs]
    rw [hadd]
    by_cases hmax : e.val < 254
    · right
      obtain ⟨e', f', hu⟩ := exists_double e f hmax
      exact ⟨e', f', round_exact s _ 1 (by decide) e' f' (by rw [hu, Nat.mul_one]), hu⟩
    · left
      have he : e.val = 254 := by omega
      have hbig : (2 : Nat) ^ 277 ≤ 2 * units e f := by
        rw [units, if_neg (by omega), he]
        calc (2 : Nat) ^ 277 = 2 * (2 ^ 23 * 2 ^ 253) := by rw [← Nat.pow_add, ← Nat.pow_succ']
          _ ≤ 2 * ((2 ^ 23 + f.toNat) * 2 ^ (254 - 1)) :=
              Nat.mul_le_mul_left _ (Nat.mul_le_mul (Nat.le_add_right _ _) (le_refl _))
      have hs := round_spec s (2 * units e f) 1 (by decide)
      have habs' : |if s then -(((2 * units e f : Nat) : ℚ) / (1 : Nat)) else ((2 * units e f : Nat) : ℚ) / (1 : Nat)|
          = ((2 * units e f : Nat) : ℚ) := by
        cases s <;> simp
      have hc : (2 : ℚ) ^ 277 - 2 ^ 252 ≤ ((2 * units e f : Nat) : ℚ) := by
        have h1 : (((2 : Nat) ^ 277 : Nat) : ℚ) ≤ ((2 * units e f : Nat) : ℚ) := by exact_mod_cast hbig
        have h2 : (((2 : Nat) ^ 277 : Nat) : ℚ) = (2 : ℚ) ^ 277 := by rw [Nat.cast_pow]; norm_num
        rw [h2] at h1
        have h3 : (0 : ℚ) ≤ 2 ^ 252 := by positivity
        exact le_trans (sub_le_self _ h3) h1
      unfold RoundedFrom at hs
      rw [habs', if_pos hc] at hs
      exact hs

/-- Doubling a value that flushing keeps: infinity, or twice the value, which flushing keeps too. -/
theorem add_self (s : Bool) (e : Fin 255) (f : BitVec 23) (h : flush (.num s e f) = .num s e f) :
    add (.num s e f) (.num s e f) = .inf s ∨
      ∃ e' f', add (.num s e f) (.num s e f) = .num s e' f' ∧ units e' f' = 2 * units e f := by
  unfold add
  rw [h]
  rcases addExact_self s e f with h1 | ⟨e', f', h1, h2⟩
  · left; rw [h1]; rfl
  · right
    refine ⟨e', f', ?_, h2⟩
    rw [h1]
    rcases flush_cases (.num s e' f') with h3 | ⟨hftz, s', e'', f'', h4, hsub, h3⟩
    · exact h3
    · cases h4
      exfalso
      simp only [isSubnormal, Bool.and_eq_true, beq_iff_eq, bne_iff_ne, ne_eq] at hsub
      have hu : units e' f' = f'.toNat := by simp [units, hsub.1]
      have hf' : f'.toNat < 2 ^ 23 := f'.isLt
      have hfn : f'.toNat ≠ 0 := fun h0 => hsub.2 (BitVec.eq_of_toNat_eq (by simpa using h0))
      have hsmall : units e f < 2 ^ 22 := by omega
      have he0 : e.val = 0 := by
        by_contra hne
        have : 2 ^ 23 ≤ units e f := by
          rw [units, if_neg hne]
          calc 2 ^ 23 = 2 ^ 23 * 1 := by rw [Nat.mul_one]
            _ ≤ (2 ^ 23 + f.toNat) * 2 ^ (e.val - 1) := Nat.mul_le_mul (by omega) Nat.one_le_two_pow
        omega
      have hfz : f ≠ 0#23 := by
        rintro rfl
        rw [hu, units, if_pos he0] at h2
        simp at h2
        omega
      have hsub0 : isSubnormal (.num s e f) = true := by simp [isSubnormal, he0, hfz]
      have : flush (.num s e f) = zero s := by
        unfold flush
        rw [hsub0, hftz]
      rw [this, zero] at h
      injection h with _ _ h5
      exact hfz h5.symm

theorem add_inf_self (s : Bool) : add (.inf s) (.inf s) = .inf s := by simp [add, addExact]

theorem add_zero_self (s : Bool) : add (zero s) (zero s) = zero s := by
  have hz : signed s 0 0 + signed s 0 0 = 0 := by cases s <;> rfl
  have : addExact (zero s) (zero s) = zero s := by
    simp only [zero, addExact, hz, if_true, Bool.and_self]
  simp only [add, flush_zero, this]

end Sys2Proof.F32
end

