-- ==== Sys2Proof/Laws/State.lean ====
section
/-! SUPPORT. One lemma per field per update of the state, so that no later proof unfolds a record update. -/

namespace Sys2Proof.Machine

variable (s : State)

@[simp] theorem State.setVoice_lfo (v : VoiceIdx) (x : Voice) : (s.setVoice v x).lfo = s.lfo := rfl
@[simp] theorem State.setVoice_seed (v : VoiceIdx) (x : Voice) : (s.setVoice v x).seed = s.seed := rfl
@[simp] theorem State.setVoice_engine (v : VoiceIdx) (x : Voice) : (s.setVoice v x).engine = s.engine := rfl
@[simp] theorem State.setVoice_derived (v : VoiceIdx) (x : Voice) : (s.setVoice v x).derived = s.derived := rfl
@[simp] theorem State.setVoice_params (v : VoiceIdx) (x : Voice) : (s.setVoice v x).params = s.params := rfl
@[simp] theorem State.setVoice_periodLow (v : VoiceIdx) (x : Voice) : (s.setVoice v x).periodLow = s.periodLow := rfl
@[simp] theorem State.setVoice_refused (v : VoiceIdx) (x : Voice) : (s.setVoice v x).refused = s.refused := rfl
@[simp] theorem State.setVoice_firstRefused (v : VoiceIdx) (x : Voice) : (s.setVoice v x).firstRefused = s.firstRefused := rfl
@[simp] theorem State.setVoice_memory (v : VoiceIdx) (x : Voice) : (s.setVoice v x).memory = s.memory := rfl
@[simp] theorem State.setVoice_port (v : VoiceIdx) (x : Voice) : (s.setVoice v x).port = s.port := rfl
@[simp] theorem State.setVoice_ret (v : VoiceIdx) (x : Voice) : (s.setVoice v x).ret = s.ret := rfl

@[simp] theorem State.mapVoices_lfo (f : VoiceIdx → Voice → Voice) : (s.mapVoices f).lfo = s.lfo := rfl
@[simp] theorem State.mapVoices_seed (f : VoiceIdx → Voice → Voice) : (s.mapVoices f).seed = s.seed := rfl
@[simp] theorem State.mapVoices_engine (f : VoiceIdx → Voice → Voice) : (s.mapVoices f).engine = s.engine := rfl
@[simp] theorem State.mapVoices_derived (f : VoiceIdx → Voice → Voice) : (s.mapVoices f).derived = s.derived := rfl
@[simp] theorem State.mapVoices_params (f : VoiceIdx → Voice → Voice) : (s.mapVoices f).params = s.params := rfl
@[simp] theorem State.mapVoices_periodLow (f : VoiceIdx → Voice → Voice) : (s.mapVoices f).periodLow = s.periodLow := rfl
@[simp] theorem State.mapVoices_refused (f : VoiceIdx → Voice → Voice) : (s.mapVoices f).refused = s.refused := rfl
@[simp] theorem State.mapVoices_firstRefused (f : VoiceIdx → Voice → Voice) : (s.mapVoices f).firstRefused = s.firstRefused := rfl
@[simp] theorem State.mapVoices_memory (f : VoiceIdx → Voice → Voice) : (s.mapVoices f).memory = s.memory := rfl
@[simp] theorem State.mapVoices_port (f : VoiceIdx → Voice → Voice) : (s.mapVoices f).port = s.port := rfl
@[simp] theorem State.mapVoices_ret (f : VoiceIdx → Voice → Voice) : (s.mapVoices f).ret = s.ret := rfl

@[simp] theorem State.setLfo_voices (x : Lfo) : (s.setLfo x).voices = s.voices := rfl
@[simp] theorem State.setLfo_lfo (x : Lfo) : (s.setLfo x).lfo = x := rfl
@[simp] theorem State.setLfo_seed (x : Lfo) : (s.setLfo x).seed = s.seed := rfl
@[simp] theorem State.setLfo_engine (x : Lfo) : (s.setLfo x).engine = s.engine := rfl
@[simp] theorem State.setLfo_derived (x : Lfo) : (s.setLfo x).derived = s.derived := rfl
@[simp] theorem State.setLfo_params (x : Lfo) : (s.setLfo x).params = s.params := rfl
@[simp] theorem State.setLfo_periodLow (x : Lfo) : (s.setLfo x).periodLow = s.periodLow := rfl
@[simp] theorem State.setLfo_refused (x : Lfo) : (s.setLfo x).refused = s.refused := rfl
@[simp] theorem State.setLfo_firstRefused (x : Lfo) : (s.setLfo x).firstRefused = s.firstRefused := rfl
@[simp] theorem State.setLfo_memory (x : Lfo) : (s.setLfo x).memory = s.memory := rfl
@[simp] theorem State.setLfo_port (x : Lfo) : (s.setLfo x).port = s.port := rfl
@[simp] theorem State.setLfo_ret (x : Lfo) : (s.setLfo x).ret = s.ret := rfl

@[simp] theorem State.setSeed_voices (x : Word32) : (s.setSeed x).voices = s.voices := rfl
@[simp] theorem State.setSeed_lfo (x : Word32) : (s.setSeed x).lfo = s.lfo := rfl
@[simp] theorem State.setSeed_seed (x : Word32) : (s.setSeed x).seed = x := rfl
@[simp] theorem State.setSeed_engine (x : Word32) : (s.setSeed x).engine = s.engine := rfl
@[simp] theorem State.setSeed_derived (x : Word32) : (s.setSeed x).derived = s.derived := rfl
@[simp] theorem State.setSeed_params (x : Word32) : (s.setSeed x).params = s.params := rfl
@[simp] theorem State.setSeed_periodLow (x : Word32) : (s.setSeed x).periodLow = s.periodLow := rfl
@[simp] theorem State.setSeed_refused (x : Word32) : (s.setSeed x).refused = s.refused := rfl
@[simp] theorem State.setSeed_firstRefused (x : Word32) : (s.setSeed x).firstRefused = s.firstRefused := rfl
@[simp] theorem State.setSeed_memory (x : Word32) : (s.setSeed x).memory = s.memory := rfl
@[simp] theorem State.setSeed_port (x : Word32) : (s.setSeed x).port = s.port := rfl
@[simp] theorem State.setSeed_ret (x : Word32) : (s.setSeed x).ret = s.ret := rfl

@[simp] theorem State.setEngine_voices (x : Engine) : (s.setEngine x).voices = s.voices := rfl
@[simp] theorem State.setEngine_lfo (x : Engine) : (s.setEngine x).lfo = s.lfo := rfl
@[simp] theorem State.setEngine_seed (x : Engine) : (s.setEngine x).seed = s.seed := rfl
@[simp] theorem State.setEngine_engine (x : Engine) : (s.setEngine x).engine = x := rfl
@[simp] theorem State.setEngine_derived (x : Engine) : (s.setEngine x).derived = s.derived := rfl
@[simp] theorem State.setEngine_params (x : Engine) : (s.setEngine x).params = s.params := rfl
@[simp] theorem State.setEngine_periodLow (x : Engine) : (s.setEngine x).periodLow = s.periodLow := rfl
@[simp] theorem State.setEngine_refused (x : Engine) : (s.setEngine x).refused = s.refused := rfl
@[simp] theorem State.setEngine_firstRefused (x : Engine) : (s.setEngine x).firstRefused = s.firstRefused := rfl
@[simp] theorem State.setEngine_memory (x : Engine) : (s.setEngine x).memory = s.memory := rfl
@[simp] theorem State.setEngine_port (x : Engine) : (s.setEngine x).port = s.port := rfl
@[simp] theorem State.setEngine_ret (x : Engine) : (s.setEngine x).ret = s.ret := rfl

@[simp] theorem State.setDerived_voices (x : Derived) : (s.setDerived x).voices = s.voices := rfl
@[simp] theorem State.setDerived_lfo (x : Derived) : (s.setDerived x).lfo = s.lfo := rfl
@[simp] theorem State.setDerived_seed (x : Derived) : (s.setDerived x).seed = s.seed := rfl
@[simp] theorem State.setDerived_engine (x : Derived) : (s.setDerived x).engine = s.engine := rfl
@[simp] theorem State.setDerived_derived (x : Derived) : (s.setDerived x).derived = x := rfl
@[simp] theorem State.setDerived_params (x : Derived) : (s.setDerived x).params = s.params := rfl
@[simp] theorem State.setDerived_periodLow (x : Derived) : (s.setDerived x).periodLow = s.periodLow := rfl
@[simp] theorem State.setDerived_refused (x : Derived) : (s.setDerived x).refused = s.refused := rfl
@[simp] theorem State.setDerived_firstRefused (x : Derived) : (s.setDerived x).firstRefused = s.firstRefused := rfl
@[simp] theorem State.setDerived_memory (x : Derived) : (s.setDerived x).memory = s.memory := rfl
@[simp] theorem State.setDerived_port (x : Derived) : (s.setDerived x).port = s.port := rfl
@[simp] theorem State.setDerived_ret (x : Derived) : (s.setDerived x).ret = s.ret := rfl

@[simp] theorem State.setParam_voices (i : Fin 20) (x : F32) : (s.setParam i x).voices = s.voices := rfl
@[simp] theorem State.setParam_lfo (i : Fin 20) (x : F32) : (s.setParam i x).lfo = s.lfo := rfl
@[simp] theorem State.setParam_seed (i : Fin 20) (x : F32) : (s.setParam i x).seed = s.seed := rfl
@[simp] theorem State.setParam_engine (i : Fin 20) (x : F32) : (s.setParam i x).engine = s.engine := rfl
@[simp] theorem State.setParam_derived (i : Fin 20) (x : F32) : (s.setParam i x).derived = s.derived := rfl
@[simp] theorem State.setParam_periodLow (i : Fin 20) (x : F32) : (s.setParam i x).periodLow = s.periodLow := rfl
@[simp] theorem State.setParam_refused (i : Fin 20) (x : F32) : (s.setParam i x).refused = s.refused := rfl
@[simp] theorem State.setParam_firstRefused (i : Fin 20) (x : F32) : (s.setParam i x).firstRefused = s.firstRefused := rfl
@[simp] theorem State.setParam_memory (i : Fin 20) (x : F32) : (s.setParam i x).memory = s.memory := rfl
@[simp] theorem State.setParam_port (i : Fin 20) (x : F32) : (s.setParam i x).port = s.port := rfl
@[simp] theorem State.setParam_ret (i : Fin 20) (x : F32) : (s.setParam i x).ret = s.ret := rfl

@[simp] theorem State.setPitchBend_voices (x : F32) : (s.setPitchBend x).voices = s.voices := rfl
@[simp] theorem State.setPitchBend_lfo (x : F32) : (s.setPitchBend x).lfo = s.lfo := rfl
@[simp] theorem State.setPitchBend_seed (x : F32) : (s.setPitchBend x).seed = s.seed := rfl
@[simp] theorem State.setPitchBend_engine (x : F32) : (s.setPitchBend x).engine = { s.engine with pitchBend := x } := rfl
@[simp] theorem State.setPitchBend_derived (x : F32) : (s.setPitchBend x).derived = s.derived := rfl
@[simp] theorem State.setPitchBend_params (x : F32) : (s.setPitchBend x).params = s.params := rfl
@[simp] theorem State.setPitchBend_periodLow (x : F32) : (s.setPitchBend x).periodLow = s.periodLow := rfl
@[simp] theorem State.setPitchBend_refused (x : F32) : (s.setPitchBend x).refused = s.refused := rfl
@[simp] theorem State.setPitchBend_firstRefused (x : F32) : (s.setPitchBend x).firstRefused = s.firstRefused := rfl
@[simp] theorem State.setPitchBend_memory (x : F32) : (s.setPitchBend x).memory = s.memory := rfl
@[simp] theorem State.setPitchBend_port (x : F32) : (s.setPitchBend x).port = s.port := rfl
@[simp] theorem State.setPitchBend_ret (x : F32) : (s.setPitchBend x).ret = s.ret := rfl

@[simp] theorem State.setSustainPedal_voices (x : Bool) : (s.setSustainPedal x).voices = s.voices := rfl
@[simp] theorem State.setSustainPedal_lfo (x : Bool) : (s.setSustainPedal x).lfo = s.lfo := rfl
@[simp] theorem State.setSustainPedal_seed (x : Bool) : (s.setSustainPedal x).seed = s.seed := rfl
@[simp] theorem State.setSustainPedal_engine (x : Bool) : (s.setSustainPedal x).engine = { s.engine with sustainPedal := x } := rfl
@[simp] theorem State.setSustainPedal_derived (x : Bool) : (s.setSustainPedal x).derived = s.derived := rfl
@[simp] theorem State.setSustainPedal_params (x : Bool) : (s.setSustainPedal x).params = s.params := rfl
@[simp] theorem State.setSustainPedal_periodLow (x : Bool) : (s.setSustainPedal x).periodLow = s.periodLow := rfl
@[simp] theorem State.setSustainPedal_refused (x : Bool) : (s.setSustainPedal x).refused = s.refused := rfl
@[simp] theorem State.setSustainPedal_firstRefused (x : Bool) : (s.setSustainPedal x).firstRefused = s.firstRefused := rfl
@[simp] theorem State.setSustainPedal_memory (x : Bool) : (s.setSustainPedal x).memory = s.memory := rfl
@[simp] theorem State.setSustainPedal_port (x : Bool) : (s.setSustainPedal x).port = s.port := rfl
@[simp] theorem State.setSustainPedal_ret (x : Bool) : (s.setSustainPedal x).ret = s.ret := rfl

@[simp] theorem State.setMemory_voices (x : Memory) : (s.setMemory x).voices = s.voices := rfl
@[simp] theorem State.setMemory_lfo (x : Memory) : (s.setMemory x).lfo = s.lfo := rfl
@[simp] theorem State.setMemory_seed (x : Memory) : (s.setMemory x).seed = s.seed := rfl
@[simp] theorem State.setMemory_engine (x : Memory) : (s.setMemory x).engine = s.engine := rfl
@[simp] theorem State.setMemory_derived (x : Memory) : (s.setMemory x).derived = s.derived := rfl
@[simp] theorem State.setMemory_params (x : Memory) : (s.setMemory x).params = s.params := rfl
@[simp] theorem State.setMemory_periodLow (x : Memory) : (s.setMemory x).periodLow = s.periodLow := rfl
@[simp] theorem State.setMemory_refused (x : Memory) : (s.setMemory x).refused = s.refused := rfl
@[simp] theorem State.setMemory_firstRefused (x : Memory) : (s.setMemory x).firstRefused = s.firstRefused := rfl
@[simp] theorem State.setMemory_memory (x : Memory) : (s.setMemory x).memory = x := rfl
@[simp] theorem State.setMemory_port (x : Memory) : (s.setMemory x).port = s.port := rfl
@[simp] theorem State.setMemory_ret (x : Memory) : (s.setMemory x).ret = s.ret := rfl

@[simp] theorem State.raisePeriodLow_voices (x : Bool) : (s.raisePeriodLow x).voices = s.voices := rfl
@[simp] theorem State.raisePeriodLow_lfo (x : Bool) : (s.raisePeriodLow x).lfo = s.lfo := rfl
@[simp] theorem State.raisePeriodLow_seed (x : Bool) : (s.raisePeriodLow x).seed = s.seed := rfl
@[simp] theorem State.raisePeriodLow_engine (x : Bool) : (s.raisePeriodLow x).engine = s.engine := rfl
@[simp] theorem State.raisePeriodLow_derived (x : Bool) : (s.raisePeriodLow x).derived = s.derived := rfl
@[simp] theorem State.raisePeriodLow_params (x : Bool) : (s.raisePeriodLow x).params = s.params := rfl
@[simp] theorem State.raisePeriodLow_periodLow (x : Bool) : (s.raisePeriodLow x).periodLow = (s.periodLow || x) := rfl
@[simp] theorem State.raisePeriodLow_refused (x : Bool) : (s.raisePeriodLow x).refused = s.refused := rfl
@[simp] theorem State.raisePeriodLow_firstRefused (x : Bool) : (s.raisePeriodLow x).firstRefused = s.firstRefused := rfl
@[simp] theorem State.raisePeriodLow_memory (x : Bool) : (s.raisePeriodLow x).memory = s.memory := rfl
@[simp] theorem State.raisePeriodLow_port (x : Bool) : (s.raisePeriodLow x).port = s.port := rfl
@[simp] theorem State.raisePeriodLow_ret (x : Bool) : (s.raisePeriodLow x).ret = s.ret := rfl

@[simp] theorem State.setPort_voices (x : List Command) : (s.setPort x).voices = s.voices := rfl
@[simp] theorem State.setPort_lfo (x : List Command) : (s.setPort x).lfo = s.lfo := rfl
@[simp] theorem State.setPort_seed (x : List Command) : (s.setPort x).seed = s.seed := rfl
@[simp] theorem State.setPort_engine (x : List Command) : (s.setPort x).engine = s.engine := rfl
@[simp] theorem State.setPort_derived (x : List Command) : (s.setPort x).derived = s.derived := rfl
@[simp] theorem State.setPort_params (x : List Command) : (s.setPort x).params = s.params := rfl
@[simp] theorem State.setPort_periodLow (x : List Command) : (s.setPort x).periodLow = s.periodLow := rfl
@[simp] theorem State.setPort_refused (x : List Command) : (s.setPort x).refused = s.refused := rfl
@[simp] theorem State.setPort_firstRefused (x : List Command) : (s.setPort x).firstRefused = s.firstRefused := rfl
@[simp] theorem State.setPort_memory (x : List Command) : (s.setPort x).memory = s.memory := rfl
@[simp] theorem State.setPort_port (x : List Command) : (s.setPort x).port = x := rfl
@[simp] theorem State.setPort_ret (x : List Command) : (s.setPort x).ret = s.ret := rfl

@[simp] theorem State.setRet_voices (x : RetVal) : (s.setRet x).voices = s.voices := rfl
@[simp] theorem State.setRet_lfo (x : RetVal) : (s.setRet x).lfo = s.lfo := rfl
@[simp] theorem State.setRet_seed (x : RetVal) : (s.setRet x).seed = s.seed := rfl
@[simp] theorem State.setRet_engine (x : RetVal) : (s.setRet x).engine = s.engine := rfl
@[simp] theorem State.setRet_derived (x : RetVal) : (s.setRet x).derived = s.derived := rfl
@[simp] theorem State.setRet_params (x : RetVal) : (s.setRet x).params = s.params := rfl
@[simp] theorem State.setRet_periodLow (x : RetVal) : (s.setRet x).periodLow = s.periodLow := rfl
@[simp] theorem State.setRet_refused (x : RetVal) : (s.setRet x).refused = s.refused := rfl
@[simp] theorem State.setRet_firstRefused (x : RetVal) : (s.setRet x).firstRefused = s.firstRefused := rfl
@[simp] theorem State.setRet_memory (x : RetVal) : (s.setRet x).memory = s.memory := rfl
@[simp] theorem State.setRet_port (x : RetVal) : (s.setRet x).port = s.port := rfl
@[simp] theorem State.setRet_ret (x : RetVal) : (s.setRet x).ret = x := rfl

@[simp] theorem State.refuse_voices (c : Command) : (s.refuse c).voices = s.voices := rfl
@[simp] theorem State.refuse_lfo (c : Command) : (s.refuse c).lfo = s.lfo := rfl
@[simp] theorem State.refuse_seed (c : Command) : (s.refuse c).seed = s.seed := rfl
@[simp] theorem State.refuse_engine (c : Command) : (s.refuse c).engine = s.engine := rfl
@[simp] theorem State.refuse_derived (c : Command) : (s.refuse c).derived = s.derived := rfl
@[simp] theorem State.refuse_params (c : Command) : (s.refuse c).params = s.params := rfl
@[simp] theorem State.refuse_periodLow (c : Command) : (s.refuse c).periodLow = s.periodLow := rfl
@[simp] theorem State.refuse_refused (c : Command) : (s.refuse c).refused = true := rfl
@[simp] theorem State.refuse_firstRefused (c : Command) : (s.refuse c).firstRefused = (if s.refused then s.firstRefused else some c) := rfl
@[simp] theorem State.refuse_memory (c : Command) : (s.refuse c).memory = s.memory := rfl
@[simp] theorem State.refuse_port (c : Command) : (s.refuse c).port = s.port := rfl
@[simp] theorem State.refuse_ret (c : Command) : (s.refuse c).ret = s.ret := rfl

/-! ## Reading a voice or a parameter after an update -/

@[simp] theorem State.setVoice_param (v : VoiceIdx) (x : Voice) (j : Fin 20) : (s.setVoice v x).param j = s.param j := rfl
@[simp] theorem State.mapVoices_param (f : VoiceIdx → Voice → Voice) (j : Fin 20) : (s.mapVoices f).param j = s.param j := rfl
@[simp] theorem State.setLfo_voice (x : Lfo) (w : VoiceIdx) : (s.setLfo x).voice w = s.voice w := rfl
@[simp] theorem State.setLfo_param (x : Lfo) (j : Fin 20) : (s.setLfo x).param j = s.param j := rfl
@[simp] theorem State.setSeed_voice (x : Word32) (w : VoiceIdx) : (s.setSeed x).voice w = s.voice w := rfl
@[simp] theorem State.setSeed_param (x : Word32) (j : Fin 20) : (s.setSeed x).param j = s.param j := rfl
@[simp] theorem State.setEngine_voice (x : Engine) (w : VoiceIdx) : (s.setEngine x).voice w = s.voice w := rfl
@[simp] theorem State.setEngine_param (x : Engine) (j : Fin 20) : (s.setEngine x).param j = s.param j := rfl
@[simp] theorem State.setDerived_voice (x : Derived) (w : VoiceIdx) : (s.setDerived x).voice w = s.voice w := rfl
@[simp] theorem State.setDerived_param (x : Derived) (j : Fin 20) : (s.setDerived x).param j = s.param j := rfl
@[simp] theorem State.setParam_voice (i : Fin 20) (x : F32) (w : VoiceIdx) : (s.setParam i x).voice w = s.voice w := rfl
@[simp] theorem State.setPitchBend_voice (x : F32) (w : VoiceIdx) : (s.setPitchBend x).voice w = s.voice w := rfl
@[simp] theorem State.setPitchBend_param (x : F32) (j : Fin 20) : (s.setPitchBend x).param j = s.param j := rfl
@[simp] theorem State.setSustainPedal_voice (x : Bool) (w : VoiceIdx) : (s.setSustainPedal x).voice w = s.voice w := rfl
@[simp] theorem State.setSustainPedal_param (x : Bool) (j : Fin 20) : (s.setSustainPedal x).param j = s.param j := rfl
@[simp] theorem State.setMemory_voice (x : Memory) (w : VoiceIdx) : (s.setMemory x).voice w = s.voice w := rfl
@[simp] theorem State.setMemory_param (x : Memory) (j : Fin 20) : (s.setMemory x).param j = s.param j := rfl
@[simp] theorem State.raisePeriodLow_voice (x : Bool) (w : VoiceIdx) : (s.raisePeriodLow x).voice w = s.voice w := rfl
@[simp] theorem State.raisePeriodLow_param (x : Bool) (j : Fin 20) : (s.raisePeriodLow x).param j = s.param j := rfl
@[simp] theorem State.setPort_voice (x : List Command) (w : VoiceIdx) : (s.setPort x).voice w = s.voice w := rfl
@[simp] theorem State.setPort_param (x : List Command) (j : Fin 20) : (s.setPort x).param j = s.param j := rfl
@[simp] theorem State.setRet_voice (x : RetVal) (w : VoiceIdx) : (s.setRet x).voice w = s.voice w := rfl
@[simp] theorem State.setRet_param (x : RetVal) (j : Fin 20) : (s.setRet x).param j = s.param j := rfl
@[simp] theorem State.refuse_voice (c : Command) (w : VoiceIdx) : (s.refuse c).voice w = s.voice w := rfl
@[simp] theorem State.refuse_param (c : Command) (j : Fin 20) : (s.refuse c).param j = s.param j := rfl

@[simp] theorem State.voice_setVoice_same (v : VoiceIdx) (x : Voice) : (s.setVoice v x).voice v = x := by
  simp [State.voice, State.setVoice]

@[simp] theorem State.voice_setVoice_ne (v w : VoiceIdx) (x : Voice) (h : w ≠ v) :
    (s.setVoice v x).voice w = s.voice w := by
  have h' : v.val ≠ w.val := fun e => h (Fin.ext e.symm)
  simp [State.voice, State.setVoice, h']

theorem State.voice_setVoice (v w : VoiceIdx) (x : Voice) :
    (s.setVoice v x).voice w = if w = v then x else s.voice w := by
  by_cases h : w = v
  · subst h; simp
  · simp [h]

@[simp] theorem State.voice_mapVoices (f : VoiceIdx → Voice → Voice) (w : VoiceIdx) :
    (s.mapVoices f).voice w = f w (s.voice w) := by
  simp [State.voice, State.mapVoices]

@[simp] theorem State.param_setParam_same (i : Fin 20) (x : F32) : (s.setParam i x).param i = x := by
  simp [State.param, State.setParam]

@[simp] theorem State.param_setParam_ne (i j : Fin 20) (x : F32) (h : j ≠ i) :
    (s.setParam i x).param j = s.param j := by
  have h' : i.val ≠ j.val := fun e => h (Fin.ext e.symm)
  simp [State.param, State.setParam, h']

/-- Two states with the same voices at every index and the same other fields are the same. -/
theorem State.ext_voices {s t : State} (hv : ∀ v, t.voice v = s.voice v) (h : { t with voices := s.voices } = s) :
    t = s := by
  have : t.voices = s.voices := by
    apply Vector.ext
    intro i hi
    exact hv ⟨i, hi⟩
  rw [← h, ← this]

@[simp] theorem State.setVoice_voice (v : VoiceIdx) : s.setVoice v (s.voice v) = s := by
  apply State.ext_voices
  · intro w
    rw [State.voice_setVoice]
    split <;> simp_all
  · rfl

@[simp] theorem State.setVoice_setVoice (v : VoiceIdx) (x y : Voice) :
    (s.setVoice v x).setVoice v y = s.setVoice v y := by
  apply State.ext_voices
  · intro w
    simp only [State.voice_setVoice]
    split <;> rfl
  · rfl

/-! ## The fields of a voice -/

variable (x : Voice)

@[simp] theorem Voice.osc_osc1 : x.osc .osc1 = x.osc1 := rfl
@[simp] theorem Voice.osc_osc2 : x.osc .osc2 = x.osc2 := rfl

@[simp] theorem Voice.setEnv_note (y : Env) : (x.setEnv y).note = x.note := rfl
@[simp] theorem Voice.setEnv_velocity (y : Env) : (x.setEnv y).velocity = x.velocity := rfl
@[simp] theorem Voice.setEnv_period (y : Env) : (x.setEnv y).period = x.period := rfl
@[simp] theorem Voice.setEnv_osc1 (y : Env) : (x.setEnv y).osc1 = x.osc1 := rfl
@[simp] theorem Voice.setEnv_osc2 (y : Env) : (x.setEnv y).osc2 = x.osc2 := rfl
@[simp] theorem Voice.setEnv_env (y : Env) : (x.setEnv y).env = y := rfl
@[simp] theorem Voice.setEnv_filter (y : Env) : (x.setEnv y).filter = x.filter := rfl
@[simp] theorem Voice.setEnv_panLeft (y : Env) : (x.setEnv y).panLeft = x.panLeft := rfl
@[simp] theorem Voice.setEnv_panRight (y : Env) : (x.setEnv y).panRight = x.panRight := rfl
@[simp] theorem Voice.setFilter_note (y : Filter) : (x.setFilter y).note = x.note := rfl
@[simp] theorem Voice.setFilter_velocity (y : Filter) : (x.setFilter y).velocity = x.velocity := rfl
@[simp] theorem Voice.setFilter_period (y : Filter) : (x.setFilter y).period = x.period := rfl
@[simp] theorem Voice.setFilter_osc1 (y : Filter) : (x.setFilter y).osc1 = x.osc1 := rfl
@[simp] theorem Voice.setFilter_osc2 (y : Filter) : (x.setFilter y).osc2 = x.osc2 := rfl
@[simp] theorem Voice.setFilter_env (y : Filter) : (x.setFilter y).env = x.env := rfl
@[simp] theorem Voice.setFilter_filter (y : Filter) : (x.setFilter y).filter = y := rfl
@[simp] theorem Voice.setFilter_panLeft (y : Filter) : (x.setFilter y).panLeft = x.panLeft := rfl
@[simp] theorem Voice.setFilter_panRight (y : Filter) : (x.setFilter y).panRight = x.panRight := rfl
@[simp] theorem Voice.setNote_note (y : Int) : (x.setNote y).note = y := rfl
@[simp] theorem Voice.setNote_velocity (y : Int) : (x.setNote y).velocity = x.velocity := rfl
@[simp] theorem Voice.setNote_period (y : Int) : (x.setNote y).period = x.period := rfl
@[simp] theorem Voice.setNote_osc1 (y : Int) : (x.setNote y).osc1 = x.osc1 := rfl
@[simp] theorem Voice.setNote_osc2 (y : Int) : (x.setNote y).osc2 = x.osc2 := rfl
@[simp] theorem Voice.setNote_env (y : Int) : (x.setNote y).env = x.env := rfl
@[simp] theorem Voice.setNote_filter (y : Int) : (x.setNote y).filter = x.filter := rfl
@[simp] theorem Voice.setNote_panLeft (y : Int) : (x.setNote y).panLeft = x.panLeft := rfl
@[simp] theorem Voice.setNote_panRight (y : Int) : (x.setNote y).panRight = x.panRight := rfl
@[simp] theorem Voice.setOsc_note (o : OscId) (y : Osc) : (x.setOsc o y).note = x.note := by cases o <;> rfl
@[simp] theorem Voice.setOsc_velocity (o : OscId) (y : Osc) : (x.setOsc o y).velocity = x.velocity := by cases o <;> rfl
@[simp] theorem Voice.setOsc_period (o : OscId) (y : Osc) : (x.setOsc o y).period = x.period := by cases o <;> rfl
@[simp] theorem Voice.setOsc_env (o : OscId) (y : Osc) : (x.setOsc o y).env = x.env := by cases o <;> rfl
@[simp] theorem Voice.setOsc_filter (o : OscId) (y : Osc) : (x.setOsc o y).filter = x.filter := by cases o <;> rfl
@[simp] theorem Voice.setOsc_panLeft (o : OscId) (y : Osc) : (x.setOsc o y).panLeft = x.panLeft := by cases o <;> rfl
@[simp] theorem Voice.setOsc_panRight (o : OscId) (y : Osc) : (x.setOsc o y).panRight = x.panRight := by cases o <;> rfl
@[simp] theorem Voice.osc_setOsc_same (o : OscId) (y : Osc) : (x.setOsc o y).osc o = y := by cases o <;> rfl

@[simp] theorem Voice.osc_setOsc_ne (o p : OscId) (y : Osc) (h : p ≠ o) : (x.setOsc o y).osc p = x.osc p := by
  cases o <;> cases p <;> first | rfl | exact absurd rfl h

/-! ## Unit updates are one slot's update -/

@[simp] theorem State.updEnv_voice_same (v : VoiceIdx) (f : Env → Env) :
    (s.updEnv v f).voice v = (s.voice v).setEnv (f (s.voice v).env) := by simp [State.updEnv]

@[simp] theorem State.updFilter_voice_same (v : VoiceIdx) (f : Filter → Filter) :
    (s.updFilter v f).voice v = (s.voice v).setFilter (f (s.voice v).filter) := by simp [State.updFilter]

@[simp] theorem State.updOsc_voice_same (v : VoiceIdx) (o : OscId) (f : Osc → Osc) :
    (s.updOsc v o f).voice v = (s.voice v).setOsc o (f ((s.voice v).osc o)) := by simp [State.updOsc]

@[simp] theorem State.updEnv_lfo (v : VoiceIdx) (f : Env → Env) : (s.updEnv v f).lfo = s.lfo := rfl
@[simp] theorem State.updEnv_seed (v : VoiceIdx) (f : Env → Env) : (s.updEnv v f).seed = s.seed := rfl
@[simp] theorem State.updEnv_engine (v : VoiceIdx) (f : Env → Env) : (s.updEnv v f).engine = s.engine := rfl
@[simp] theorem State.updEnv_derived (v : VoiceIdx) (f : Env → Env) : (s.updEnv v f).derived = s.derived := rfl
@[simp] theorem State.updEnv_params (v : VoiceIdx) (f : Env → Env) : (s.updEnv v f).params = s.params := rfl
@[simp] theorem State.updEnv_periodLow (v : VoiceIdx) (f : Env → Env) : (s.updEnv v f).periodLow = s.periodLow := rfl
@[simp] theorem State.updEnv_refused (v : VoiceIdx) (f : Env → Env) : (s.updEnv v f).refused = s.refused := rfl
@[simp] theorem State.updEnv_firstRefused (v : VoiceIdx) (f : Env → Env) : (s.updEnv v f).firstRefused = s.firstRefused := rfl
@[simp] theorem State.updEnv_memory (v : VoiceIdx) (f : Env → Env) : (s.updEnv v f).memory = s.memory := rfl
@[simp] theorem State.updEnv_port (v : VoiceIdx) (f : Env → Env) : (s.updEnv v f).port = s.port := rfl
@[simp] theorem State.updEnv_ret (v : VoiceIdx) (f : Env → Env) : (s.updEnv v f).ret = s.ret := rfl
@[simp] theorem State.updEnv_param (v : VoiceIdx) (f : Env → Env) (j : Fin 20) : (s.updEnv v f).param j = s.param j := rfl

@[simp] theorem State.updFilter_lfo (v : VoiceIdx) (f : Filter → Filter) : (s.updFilter v f).lfo = s.lfo := rfl
@[simp] theorem State.updFilter_seed (v : VoiceIdx) (f : Filter → Filter) : (s.updFilter v f).seed = s.seed := rfl
@[simp] theorem State.updFilter_engine (v : VoiceIdx) (f : Filter → Filter) : (s.updFilter v f).engine = s.engine := rfl
@[simp] theorem State.updFilter_derived (v : VoiceIdx) (f : Filter → Filter) : (s.updFilter v f).derived = s.derived := rfl
@[simp] theorem State.updFilter_params (v : VoiceIdx) (f : Filter → Filter) : (s.updFilter v f).params = s.params := rfl
@[simp] theorem State.updFilter_periodLow (v : VoiceIdx) (f : Filter → Filter) : (s.updFilter v f).periodLow = s.periodLow := rfl
@[simp] theorem State.updFilter_refused (v : VoiceIdx) (f : Filter → Filter) : (s.updFilter v f).refused = s.refused := rfl
@[simp] theorem State.updFilter_firstRefused (v : VoiceIdx) (f : Filter → Filter) : (s.updFilter v f).firstRefused = s.firstRefused := rfl
@[simp] theorem State.updFilter_memory (v : VoiceIdx) (f : Filter → Filter) : (s.updFilter v f).memory = s.memory := rfl
@[simp] theorem State.updFilter_port (v : VoiceIdx) (f : Filter → Filter) : (s.updFilter v f).port = s.port := rfl
@[simp] theorem State.updFilter_ret (v : VoiceIdx) (f : Filter → Filter) : (s.updFilter v f).ret = s.ret := rfl
@[simp] theorem State.updFilter_param (v : VoiceIdx) (f : Filter → Filter) (j : Fin 20) : (s.updFilter v f).param j = s.param j := rfl

@[simp] theorem State.updOsc_lfo (v : VoiceIdx) (o : OscId) (f : Osc → Osc) : (s.updOsc v o f).lfo = s.lfo := rfl
@[simp] theorem State.updOsc_seed (v : VoiceIdx) (o : OscId) (f : Osc → Osc) : (s.updOsc v o f).seed = s.seed := rfl
@[simp] theorem State.updOsc_engine (v : VoiceIdx) (o : OscId) (f : Osc → Osc) : (s.updOsc v o f).engine = s.engine := rfl
@[simp] theorem State.updOsc_derived (v : VoiceIdx) (o : OscId) (f : Osc → Osc) : (s.updOsc v o f).derived = s.derived := rfl
@[simp] theorem State.updOsc_params (v : VoiceIdx) (o : OscId) (f : Osc → Osc) : (s.updOsc v o f).params = s.params := rfl
@[simp] theorem State.updOsc_periodLow (v : VoiceIdx) (o : OscId) (f : Osc → Osc) : (s.updOsc v o f).periodLow = s.periodLow := rfl
@[simp] theorem State.updOsc_refused (v : VoiceIdx) (o : OscId) (f : Osc → Osc) : (s.updOsc v o f).refused = s.refused := rfl
@[simp] theorem State.updOsc_firstRefused (v : VoiceIdx) (o : OscId) (f : Osc → Osc) : (s.updOsc v o f).firstRefused = s.firstRefused := rfl
@[simp] theorem State.updOsc_memory (v : VoiceIdx) (o : OscId) (f : Osc → Osc) : (s.updOsc v o f).memory = s.memory := rfl
@[simp] theorem State.updOsc_port (v : VoiceIdx) (o : OscId) (f : Osc → Osc) : (s.updOsc v o f).port = s.port := rfl
@[simp] theorem State.updOsc_ret (v : VoiceIdx) (o : OscId) (f : Osc → Osc) : (s.updOsc v o f).ret = s.ret := rfl
@[simp] theorem State.updOsc_param (v : VoiceIdx) (o : OscId) (f : Osc → Osc) (j : Fin 20) : (s.updOsc v o f).param j = s.param j := rfl

/-! ## Power-on -/

@[simp] theorem State.reset_voice (v : VoiceIdx) : State.reset.voice v = Voice.powerOn := by
  simp [State.voice, State.reset]

@[simp] theorem State.reset_param (i : Fin 20) : State.reset.param i = (K.paramTable[i]).powerOn := by
  simp [State.param, State.reset, paramDefaults]

end Sys2Proof.Machine
end

