-- ==== Sys2Proof/Laws/Exec.lean ====
section
/-! SUPPORT. What a step and each shared operation of the commands can answer, said once. -/

namespace Sys2Proof.Machine

open Sys2Proof.Safety

/-! ## Step -/

theorem step_nil {s : State} (h : s.port = []) : step s = .next s := by
  unfold step
  rw [h]

theorem step_cons {s : State} {c : Command} {rest : List Command} (h : s.port = c :: rest) :
    step s = exec c.toInstr (s.setPort rest) := by
  unfold step
  rw [h]

/-! ## The boot (70_reset_and_hazards.md R435) -/

theorem allocOperandsBad_bootOperands (s : State) : allocOperandsBad s.bootOperands.1 s.bootOperands.2 = false := by
  unfold State.bootOperands
  split
  case isTrue => decide +kernel
  case isFalse h => exact Bool.eq_false_of_not_eq_true h

theorem booted_of_ready {s : State} (h : s.engine.ready = true) : s.booted = s := if_pos h

/-- The boot is what the two host calls of R435 do, both accepted. -/
theorem booted_of_notReady {s : State} (h : s.engine.ready = false) :
    ∃ t, execHostAlloc s.bootOperands.1 s.bootOperands.2 s = .next t ∧ execHostReset t = .next s.booted := by
  refine ⟨_, if_neg (by simp [allocOperandsBad_bootOperands]), ?_⟩
  rw [execHostReset, if_pos (by rfl), State.booted, if_neg (by simp [h])]

@[simp] theorem booted_ready (s : State) : s.booted.engine.ready = true := by
  unfold State.booted
  split
  · assumption
  · rfl

@[simp] theorem booted_setPort_port (s : State) : s.booted.setPort s.port = s.booted := by
  unfold State.booted
  split <;> rfl

/-- A step that answers a next state left it alone or executed the next command. -/
theorem step_cases {s t : State} (h : step s = .next t) :
    (s.port = [] ∧ t = s) ∨ ∃ c rest, s.port = c :: rest ∧ exec c.toInstr (s.setPort rest) = .next t := by
  cases hp : s.port with
  | nil =>
    rw [step_nil hp] at h
    cases h
    exact .inl ⟨rfl, rfl⟩
  | cons c rest =>
    rw [step_cons hp] at h
    exact .inr ⟨c, rest, rfl, h⟩

/-! ## MIDI -/

theorem midiCommand_ready {s : State} (h : s.engine.ready = true) (bytes : List Byte)
    (run : State → Host.Outcome State Fault Refusal) : midiCommand bytes run s = run s := by
  simp [midiCommand, h]

theorem midiCommand_notReady {s : State} (h : s.engine.ready = false) (bytes : List Byte)
    (run : State → Host.Outcome State Fault Refusal) : midiCommand bytes run s = .next (s.refuse (.midi bytes)) := by
  simp [midiCommand, h]

/-- The row of a command word runs as the instruction the word decodes to. -/
theorem runWord_eq_exec (w : CmdWord) (s : State) : runWord w s = exec (decodeWord w) s := by
  unfold runWord decodeWord
  cases rowOf w <;> rfl

/-- What the MIDI call can answer. -/
theorem execHostMidi_cases (bytes : List Byte) (s : State) :
    (s.engine.ready = false ∧ execHostMidi bytes s = .next (s.refuse (.midi bytes))) ∨
      (s.engine.ready = true ∧ (∃ r, wordOfMessage bytes = .error r) ∧ execHostMidi bytes s = .next s) ∨
      (s.engine.ready = true ∧ ∃ w, wordOfMessage bytes = .ok w ∧ execHostMidi bytes s = exec (decodeWord w) s) := by
  unfold execHostMidi
  cases hr : s.engine.ready with
  | false => exact .inl ⟨rfl, midiCommand_notReady hr _ _⟩
  | true =>
    right
    rw [midiCommand_ready hr]
    cases hw : wordOfMessage bytes with
    | error r => exact .inl ⟨rfl, ⟨r, rfl⟩, rfl⟩
    | ok w => exact .inr ⟨rfl, w, rfl, runWord_eq_exec w s⟩

/-- From every state, power-on included, the step after `withFetchWord` is the execution of the row's instruction, in the
booted block with the port as it was. -/
theorem step_withFetchWord (s : State) {nbits w : Nat} {i : Instr} (h : decodeTableWord nbits w = some i) :
    step (s.withFetchWord nbits w) = exec i s.booted := by
  unfold decodeTableWord at h
  split at h
  case isFalse => cases h
  case isTrue hw =>
    rw [step_cons (c := .midi (tableMessage w)) (rest := s.port) (by simp [State.withFetchWord, Nat.mod_eq_of_lt hw.2]),
      show (s.withFetchWord nbits w).setPort s.port = s.booted from booted_setPort_port s]
    split at h
    case h_2 => cases h
    case h_1 j hj =>
      cases h
      rcases execHostMidi_cases (tableMessage w) s.booted with ⟨hr, -⟩ | ⟨-, ⟨r, hm⟩, -⟩ | ⟨-, x, hm, he⟩
      · simp at hr
      · simp [decode, hm] at hj
      · simp only [decode, hm, Except.ok.injEq] at hj
        rw [← hj]
        exact he

/-! ## Starting a voice -/

/-- What startVoice can answer: the started slot, or the fault of a doubling loop that never ends. -/
theorem startVoice_cases (s : State) (v : VoiceIdx) (note velocity : Nat) :
    (∃ p, s.calcPeriod v note = some p ∧
        s.startVoice v note velocity = .next (s.setVoice v (s.startedVoice (s.voice v) p note velocity))) ∨
      (s.calcPeriod v note = none ∧ s.startVoice v note velocity = .fault .periodLoopDiverges) := by
  unfold State.startVoice
  cases s.calcPeriod v note with
  | none => exact .inr ⟨rfl, rfl⟩
  | some p => exact .inl ⟨p, rfl, rfl⟩

/-- The registers of a started slot that the later lines of R341 do not touch again. -/
theorem startedVoice_loaded (s : State) (x : Voice) (p : F32) (note velocity : Nat) :
    (s.startedVoice x p note velocity).note = note ∧ (s.startedVoice x p note velocity).velocity = velocity ∧
      (s.startedVoice x p note velocity).period = p := by
  unfold State.startedVoice State.lockVoice
  split <;> exact ⟨rfl, rfl, rfl⟩

/-! ## Host calls -/

/-- What SETPARAM can answer. -/
theorem execHostSetParam_cases (id : Int) (x : F32) (s : State) :
    (execHostSetParam id x s = .next (s.refuse (.setParam id x)) ∧ refuses s (.setParam id x) = true) ∨
      ∃ i, paramIndex id = some i ∧ paramValueBad i x = false ∧ switchValueBad i x = false ∧
        execHostSetParam id x s =
          .next (if s.hasBeenAllocated then (s.setParam i x).derive else s.setParam i x) := by
  unfold execHostSetParam refuses
  cases hi : paramIndex id with
  | none => exact .inl ⟨rfl, by simp [hi]⟩
  | some i =>
    simp only [hi]
    by_cases hb : (paramValueBad i x || switchValueBad i x) = true
    · left
      rw [if_pos hb]
      exact ⟨rfl, hb⟩
    · right
      rw [if_neg hb]
      simp only [Bool.or_eq_true, not_or, Bool.not_eq_true] at hb
      exact ⟨i, rfl, hb.1, hb.2, rfl⟩

/-- A legal sample rate is not the unset one, so an accepted ALLOC is remembered (assumption 22). -/
theorem sampleRate_set_of_legal {sr : F32} {bs : Int} (h : allocOperandsBad sr bs = false) : sr.eq K.zero = false := by
  simp only [allocOperandsBad, Bool.or_eq_false_iff] at h
  have hlt := h.1.1.2
  have hnan := h.1.1.1
  unfold F32.eq F32.le
  unfold F32.lt at hlt
  rw [show K.zero.flush = .num false 0 0 from rfl, Bool.and_eq_false_iff]
  rw [show K.sampleRateMin.flush = .num false 139 0x7A0000 from rfl] at hlt
  left
  cases hx : sr.flush with
  | nan => rfl
  | inf s =>
    rw [hx] at hlt
    exact hlt
  | num s e f =>
    rw [hx] at hlt
    have hpos : (0 : Int) < F32.signed false 139 0x7A0000 := by decide +kernel
    have hz : F32.signed false 0 0 = 0 := rfl
    simp only [F32.ltExact, decide_eq_false_iff_not, not_lt] at hlt
    simp only [F32.leExact, decide_eq_false_iff_not, not_le]
    omega

/-- Only an ALLOC changes what `hasBeenAllocated` reads. -/
theorem hasBeenAllocated_congr {s t : State} (h : t.engine = s.engine) : t.hasBeenAllocated = s.hasBeenAllocated := by
  unfold State.hasBeenAllocated
  rw [h]

@[simp] theorem hasBeenAllocated_setParam (s : State) (i : Fin 20) (x : F32) :
    (s.setParam i x).hasBeenAllocated = s.hasBeenAllocated := rfl

@[simp] theorem hasBeenAllocated_derive (s : State) : s.derive.hasBeenAllocated = s.hasBeenAllocated := rfl

theorem hasBeenAllocated_of_allocated {s : State} (h : s.engine.allocated = true) : s.hasBeenAllocated = true := by
  simp [State.hasBeenAllocated, h]

theorem paramIndex_of_range {id : Int} (h : 0 ≤ id ∧ id < 20) : paramIndex id = some ⟨id.toNat, by omega⟩ := by
  unfold paramIndex
  rw [dif_pos h]

theorem paramIndex_out_of_range {id : Int} (h : ¬ (0 ≤ id ∧ id < 20)) : paramIndex id = none := by
  unfold paramIndex
  rw [dif_neg h]

/-! ## Oscillator -/

/-- nextSample's two branches. -/
theorem nextSample_cases (o : Osc) :
    (o.advance.phase.le K.piOver4 = true ∧ o.nextSample = o.advance.beginCycle) ∨
      (o.advance.phase.le K.piOver4 = false ∧ o.nextSample = o.advance.insideCycle) := by
  unfold Osc.nextSample
  cases o.advance.phase.le K.piOver4 with
  | true => exact .inl ⟨rfl, rfl⟩
  | false => exact .inr ⟨rfl, rfl⟩

end Sys2Proof.Machine
end

