-- ==== Sys2Proof/Laws/Frames.lean ====
section
/-! SUPPORT. One frame lemma per shared update: what it leaves alone. -/

namespace Sys2Proof.Safety

open Sys2Proof.Machine

/-! ## Nothing outside the voices -/

theorem SameShared.refl (s : State) : SameShared s s := ⟨rfl, rfl, rfl, rfl, rfl, rfl, rfl, fun _ _ => rfl, rfl⟩

theorem SameShared.setVoice (s : State) (v : VoiceIdx) (x : Voice) : SameShared s (s.setVoice v x) :=
  ⟨rfl, rfl, rfl, rfl, rfl, rfl, rfl, fun _ _ => rfl, rfl⟩

theorem SameShared.mapVoices (s : State) (f : VoiceIdx → Voice → Voice) : SameShared s (s.mapVoices f) :=
  ⟨rfl, rfl, rfl, rfl, rfl, rfl, rfl, fun _ _ => rfl, rfl⟩

theorem SameShared.setRet {s t : State} (h : SameShared s t) (r : RetVal) : SameShared s (t.setRet r) :=
  ⟨h.lfo, h.seed, h.engine, h.derived, h.params, h.refused, h.firstRefused, h.words, h.port⟩

theorem SameShared.raisePeriodLow {s t : State} (h : SameShared s t) (b : Bool) : SameShared s (t.raisePeriodLow b) :=
  ⟨h.lfo, h.seed, h.engine, h.derived, h.params, h.refused, h.firstRefused, h.words, h.port⟩

theorem SameOtherVoices.setVoice (s : State) (v : VoiceIdx) (x : Voice) : SameOtherVoices v s (s.setVoice v x) :=
  fun w h => State.voice_setVoice_ne s v w x h

/-! ## One unit of one voice -/

theorem OnlyOsc.setOsc (x : Voice) (o : OscId) (y : Osc) : OnlyOsc o x (x.setOsc o y) := by
  constructor <;> (try intro p hp) <;> simp [*]

theorem OnlyFilter.setFilter (x : Voice) (y : Filter) : OnlyFilter x (x.setFilter y) := by
  constructor <;> (try intro o; cases o) <;> rfl

theorem OnlyEnv.setEnv (x : Voice) (y : Env) : OnlyEnv x (x.setEnv y) := by
  constructor <;> (try intro o; cases o) <;> rfl

theorem oscFrame_updOsc (s : State) (v : VoiceIdx) (o : OscId) (f : Osc → Osc) : OscFrame v o s (s.updOsc v o f) :=
  ⟨SameShared.setVoice _ _ _, SameOtherVoices.setVoice _ _ _, by
    rw [State.updOsc_voice_same]; exact OnlyOsc.setOsc _ _ _⟩

theorem oscFrame_putOscStep (s : State) (v : VoiceIdx) (o : OscId) (r : OscStep) : OscFrame v o s (s.putOscStep v o r) :=
  ⟨((SameShared.setVoice _ _ _).raisePeriodLow _).setRet _, SameOtherVoices.setVoice _ _ _,
    (oscFrame_updOsc s v o fun _ => r.osc).voice⟩

theorem filterFrame_updFilter (s : State) (v : VoiceIdx) (f : Filter → Filter) : FilterFrame v s (s.updFilter v f) :=
  ⟨SameShared.setVoice _ _ _, SameOtherVoices.setVoice _ _ _, by
    rw [State.updFilter_voice_same]; exact OnlyFilter.setFilter _ _, rfl⟩

theorem FilterFrame.setRet {v : VoiceIdx} {s t : State} (h : FilterFrame v s t) (r : RetVal) :
    FilterFrame v s (t.setRet r) := ⟨h.shared.setRet r, h.others, h.voice, h.periodLow⟩

theorem envFrame_updEnv (s : State) (v : VoiceIdx) (f : Env → Env) : EnvFrame v s (s.updEnv v f) :=
  ⟨SameShared.setVoice _ _ _, SameOtherVoices.setVoice _ _ _, by
    rw [State.updEnv_voice_same]; exact OnlyEnv.setEnv _ _, rfl⟩

theorem EnvFrame.setRet {v : VoiceIdx} {s t : State} (h : EnvFrame v s t) (r : RetVal) : EnvFrame v s (t.setRet r) :=
  ⟨h.shared.setRet r, h.others, h.voice, h.periodLow⟩

theorem voiceFrame_setVoice (s : State) (v : VoiceIdx) (x : Voice) : VoiceFrame v s (s.setVoice v x) :=
  ⟨SameShared.setVoice _ _ _, SameOtherVoices.setVoice _ _ _, rfl⟩

theorem voicesFrame_mapVoices (s : State) (f : VoiceIdx → Voice → Voice) : VoicesFrame s (s.mapVoices f) :=
  ⟨SameShared.mapVoices _ _, rfl⟩

end Sys2Proof.Safety
end

