-- ==== Sys2Proof/Laws/Memory.lean ====
section
/-! SUPPORT. The output words: read after write, lengths, and what the safety clamp gives. -/

namespace Sys2Proof.Machine

open Sys2Proof.Safety

/-! ## One channel -/

@[simp] theorem Memory.words_setWords_same (m : Memory) (ch : Channel) (ws : List F32) : (m.setWords ch ws).words ch = ws := by
  cases ch <;> rfl

@[simp] theorem Memory.words_setWords_ne (m : Memory) (ch c : Channel) (ws : List F32) (h : c ≠ ch) :
    (m.setWords ch ws).words c = m.words c := by
  cases ch <;> cases c <;> first | rfl | exact absurd rfl h

@[simp] theorem Memory.setWords_words (m : Memory) (ch : Channel) : m.setWords ch (m.words ch) = m := by
  cases ch <;> rfl

@[simp] theorem Memory.setWords_setWords (m : Memory) (ch : Channel) (xs ys : List F32) :
    (m.setWords ch xs).setWords ch ys = m.setWords ch ys := by
  cases ch <;> rfl

/-! ## Read after write (20_memory.md R101) -/

theorem writeWord_of_lt {ws : List F32} {i : Nat} (h : i < ws.length) (x : F32) : writeWord ws i x = ws.set i x := by
  simp [writeWord, h]

@[simp] theorem writeWord_length_self (ws : List F32) (x : F32) : writeWord ws ws.length x = ws ++ [x] := by
  simp [writeWord]

theorem writeWord_length (ws : List F32) (i : Nat) (x : F32) :
    (writeWord ws i x).length = if i = ws.length then ws.length + 1 else ws.length := by
  unfold writeWord
  split
  · rw [List.length_set, if_neg (by omega)]
  · split <;> simp [*]

@[simp] theorem Memory.words_outWrite_same (m : Memory) (ch : Channel) (i : Nat) (x : F32) :
    (m.outWrite ch i x).words ch = writeWord (m.words ch) i x := by simp [Memory.outWrite]

@[simp] theorem Memory.words_outWrite_ne (m : Memory) (ch c : Channel) (i : Nat) (x : F32) (h : c ≠ ch) :
    (m.outWrite ch i x).words c = m.words c := by simp [Memory.outWrite, h]

/-- A word reads as it was last written. -/
theorem Memory.outRead_outWrite_same (m : Memory) (ch : Channel) (i : Nat) (x : F32) (h : i ≤ (m.words ch).length) :
    (m.outWrite ch i x).outRead ch i = some x := by
  simp only [Memory.outRead, Memory.words_outWrite_same]
  rcases Nat.lt_or_eq_of_le h with h | rfl
  · rw [writeWord_of_lt h]; simp [h]
  · simp

/-- A write leaves every other word alone. -/
theorem Memory.outRead_outWrite_ne (m : Memory) (ch c : Channel) (i j : Nat) (x : F32) (h : c ≠ ch ∨ j ≠ i)
    (hi : i ≤ (m.words ch).length) : (m.outWrite ch i x).outRead c j = m.outRead c j := by
  by_cases hc : c = ch
  · subst hc
    have hj : j ≠ i := h.resolve_left (fun h => h rfl)
    simp only [Memory.outRead, Memory.words_outWrite_same]
    rcases Nat.lt_or_eq_of_le hi with h' | rfl
    · rw [writeWord_of_lt h']; simp [hj.symm]
    · rw [writeWord_length_self, List.getElem?_append]
      split
      · rfl
      · rw [List.getElem?_singleton, if_neg (by omega), List.getElem?_eq_none (by omega)]
  · simp [Memory.outRead, hc]

/-! ## Silencing -/

/-- The first `n` words zero, the rest kept. -/
theorem Memory.words_silence (m : Memory) (ch : Channel) (n : Nat) (h : n ≤ (m.words ch).length) :
    m.silence ch n = m.setWords ch (List.replicate n K.zero ++ (m.words ch).drop n) := by
  induction n with
  | zero => simp [Memory.silence]
  | succ n ih =>
    rw [Memory.silence, ih (by omega), Memory.outWrite, Memory.words_setWords_same, Memory.setWords_setWords,
      writeWord_of_lt (by simp; omega)]
    congr 1
    rw [List.set_append_right _ _ (by simp)]
    simp only [List.length_replicate, Nat.sub_self]
    have hd : (m.words ch).drop n = (m.words ch)[n] :: (m.words ch).drop (n + 1) :=
      List.drop_eq_getElem_cons (by omega)
    rw [hd, List.set_cons_zero, List.replicate_succ', List.append_assoc, List.singleton_append]

theorem Memory.silence_all (m : Memory) (ch : Channel) :
    m.silence ch (m.words ch).length = m.setWords ch (List.replicate (m.words ch).length K.zero) := by
  rw [Memory.words_silence m ch _ (le_refl _)]; simp

/-! ## The clamp (46_host_render.md R379) -/

theorem clampWord_eq (x : F32) : clampWord x = x.clamp K.minusOne K.one := rfl

/-- The loop from word `i` on, with the words before it already clamped: silence if a word from `i` on is
catastrophic, else those words clamped. -/
theorem Memory.clampLoop_spec (ch : Channel) (n : Nat) :
    ∀ (count i : Nat) (m : Memory), (m.words ch).length = n → i + count = n →
      m.clampLoop ch n i count =
        m.setWords ch
          (if ((m.words ch).drop i).any wordIsCatastrophic then List.replicate n K.zero
            else (m.words ch).take i ++ ((m.words ch).drop i).map clampWord) := by
  intro count
  induction count with
  | zero =>
    intro i m hn hi
    have hd : (m.words ch).drop i = [] := List.drop_eq_nil_of_le (by omega)
    have ht : (m.words ch).take i = m.words ch := List.take_of_length_le (by omega)
    simp [Memory.clampLoop, hd, ht]
  | succ count ih =>
    intro i m hn hi
    have hlt : i < (m.words ch).length := by omega
    have hd : (m.words ch).drop i = (m.words ch)[i] :: (m.words ch).drop (i + 1) := List.drop_eq_getElem_cons hlt
    have hr : m.outRead ch i = some (m.words ch)[i] := by simp [Memory.outRead, hlt]
    rw [Memory.clampLoop, hr]
    simp only
    by_cases hc : wordIsCatastrophic (m.words ch)[i] = true
    · rw [if_pos hc, hd, List.any_cons, hc, Bool.true_or, if_pos rfl, ← hn, Memory.silence_all]
    · have hc' : wordIsCatastrophic (m.words ch)[i] = false := by simpa using hc
      rw [if_neg hc, hd, List.any_cons, hc', Bool.false_or]
      have write : ∀ x, clampWord (m.words ch)[i] = x →
          (m.outWrite ch i x).clampLoop ch n (i + 1) count =
            m.setWords ch
              (if ((m.words ch).drop (i + 1)).any wordIsCatastrophic then List.replicate n K.zero
                else (m.words ch).take i ++ ((m.words ch)[i] :: (m.words ch).drop (i + 1)).map clampWord) := by
        intro x hx
        have hw : (m.outWrite ch i x).words ch = (m.words ch).set i x := by
          rw [Memory.words_outWrite_same, writeWord_of_lt hlt]
        rw [ih (i + 1) _ (by rw [hw, List.length_set]; exact hn) (by omega), hw, Memory.outWrite, Memory.setWords_setWords]
        have h1 : ((m.words ch).set i x).drop (i + 1) = (m.words ch).drop (i + 1) := List.drop_set_of_lt (by omega)
        have h2 : ((m.words ch).set i x).take (i + 1) = (m.words ch).take i ++ [x] := by
          rw [List.take_succ_eq_append_getElem (by simpa using hlt), List.getElem_set_self, List.take_set_of_le (le_refl i)]
        rw [h1, h2, List.map_cons, hx, List.append_assoc, List.singleton_append]
      have keep : clampWord (m.words ch)[i] = (m.words ch)[i] →
          m.clampLoop ch n (i + 1) count =
            m.setWords ch
              (if ((m.words ch).drop (i + 1)).any wordIsCatastrophic then List.replicate n K.zero
                else (m.words ch).take i ++ ((m.words ch)[i] :: (m.words ch).drop (i + 1)).map clampWord) := by
        intro hx
        rw [ih (i + 1) m hn (by omega), List.take_succ_eq_append_getElem hlt, List.map_cons, hx, List.append_assoc,
          List.singleton_append]
      by_cases h1 : (m.words ch)[i].lt K.minusOne = true
      · rw [if_pos h1]
        exact write _ (by simp [clampWord, h1])
      · rw [if_neg h1]
        by_cases h2 : (m.words ch)[i].gt K.one = true
        · rw [if_pos h2]
          exact write _ (by simp [clampWord, h1, h2])
        · rw [if_neg h2]
          exact keep (by simp [clampWord, h1, h2])

/-- What `safetyClamp` does: silence the channel where a word is catastrophic, else clamp each word; the other channel
is kept. -/
theorem Memory.safetyClamp_eq (m : Memory) (ch : Channel) :
    m.safetyClamp ch =
      m.setWords ch
        (if (m.words ch).any wordIsCatastrophic then List.replicate (m.words ch).length K.zero
          else (m.words ch).map clampWord) := by
  rw [Memory.safetyClamp, Memory.clampLoop_spec ch _ _ 0 m rfl (by omega)]
  simp

@[simp] theorem Memory.safetyClamp_length (m : Memory) (ch c : Channel) :
    ((m.safetyClamp ch).words c).length = (m.words c).length := by
  rw [Memory.safetyClamp_eq]
  by_cases h : c = ch
  · subst h; simp only [Memory.words_setWords_same]; split <;> simp
  · rw [Memory.words_setWords_ne _ _ _ _ h]

theorem wf_iff_lengths (m : Memory) : m.wf ↔ (m.words .left).length = (m.words .right).length := Iff.rfl

/-- The clamp keeps the canonical form. -/
theorem Memory.wf_safetyClamp (m : Memory) (ch : Channel) (h : m.wf) : (m.safetyClamp ch).wf := by
  rw [wf_iff_lengths] at *
  simpa using h

/-- The empty output space has the canonical form. -/
theorem Memory.wf_empty : Memory.empty.wf := rfl

/-- The two writes of a sample keep the canonical form. -/
theorem Memory.wf_outWrite_both (m : Memory) (i : Nat) (x y : F32) (h : m.wf) :
    ((m.outWrite .left i x).outWrite .right i y).wf := by
  rw [wf_iff_lengths] at *
  simp only [Memory.words_outWrite_same, ne_eq, reduceCtorEq, not_false_eq_true, Memory.words_outWrite_ne,
    writeWord_length, h]

theorem clampedWords_of_clamp (xs : List F32) :
    ClampedWords xs
      (if xs.any wordIsCatastrophic then List.replicate xs.length K.zero else xs.map clampWord) := by
  by_cases h : xs.any wordIsCatastrophic = true
  · left
    rw [if_pos h]
    obtain ⟨x, hx, hc⟩ := List.any_eq_true.mp h
    refine ⟨⟨x, hx, ?_⟩, rfl⟩
    simpa [wordIsCatastrophic, or_assoc] using hc
  · right
    rw [if_neg h]
    refine ⟨fun x hx => ?_, rfl⟩
    have hc : wordIsCatastrophic x = false := by
      by_contra hh
      exact h (List.any_eq_true.mpr ⟨x, hx, by simpa using hh⟩)
    simpa [wordIsCatastrophic, and_assoc] using hc

/-! ## Words in [-1, 1] -/

/-- A finite value not below -1 nor above 1 is a unit word. -/
theorem isUnitWord_of_bounds (x : F32) (h1 : x.isNaN = false) (h2 : x.isInf = false) (h3 : x.lt K.minusOne = false)
    (h4 : x.gt K.one = false) : isUnitWord x = true := by
  cases x with
  | nan => simp [F32.isNaN] at h1
  | inf s => simp [F32.isInf] at h2
  | num s e f =>
    have h3' : ¬ F32.key (.num s e f) < F32.key K.minusOne := fun h => by
      rw [(F32.lt_iff_key _ _).mpr ⟨h1, by decide, h⟩] at h3
      exact absurd h3 (by decide)
    have h4' : ¬ F32.key K.one < F32.key (.num s e f) := fun h => by
      have := (F32.lt_iff_key _ _).mpr ⟨by decide, h1, h⟩
      rw [F32.gt, this] at h4
      exact absurd h4 (by decide)
    rw [F32.key_minusOne] at h3'
    rw [F32.key_one] at h4'
    rcases F32.flush_cases (.num s e f) with h | ⟨-, s', e', f', h5, h6, -⟩
    · have hk : F32.key (.num s e f) = F32.signed s e f := by unfold F32.key; rw [h]
      rw [hk] at h3' h4'
      simp only [isUnitWord, decide_eq_true_eq]
      cases s <;> simp [F32.signed] at h3' h4' <;> zify <;> omega
    · cases h5
      simp only [F32.isSubnormal, Bool.and_eq_true, beq_iff_eq] at h6
      simp only [isUnitWord, F32.units, h6.1, if_true, decide_eq_true_eq]
      have := f.isLt
      omega

/-- A clamped word is a unit word. -/
theorem isUnitWord_clampWord (x : F32) (h : wordIsCatastrophic x = false) : isUnitWord (clampWord x) = true := by
  simp only [wordIsCatastrophic, Bool.or_eq_false_iff] at h
  unfold clampWord
  split
  · rw [F32.minusOne_eq]; decide +kernel
  · split
    · rw [F32.one_eq]; decide +kernel
    · rename_i a b
      exact isUnitWord_of_bounds x h.1.1.1 h.1.1.2 (by simpa using a) (by simpa using b)

end Sys2Proof.Machine
end

