-- ==== Sys2Proof/Laws/Render.lean ====
section
/-! SUPPORT. What the sample loop of a render call (46_host_render.md R375) can change, said once per operation. -/

namespace Sys2Proof.Machine

open Sys2Proof.Safety

/-! ## A voice over a render call -/

/-- What rendering keeps of a voice; an inactive voice is kept whole (44_voice.md R314). -/
structure VoiceKept (x y : Voice) : Prop where
  note : y.note = x.note
  velocity : y.velocity = x.velocity
  period : y.period = x.period
  panLeft : y.panLeft = x.panLeft
  panRight : y.panRight = x.panRight
  attackMultiplier : y.env.attackMultiplier = x.env.attackMultiplier
  decayMultiplier : y.env.decayMultiplier = x.env.decayMultiplier
  sustainLevel : y.env.sustainLevel = x.env.sustainLevel
  releaseMultiplier : y.env.releaseMultiplier = x.env.releaseMultiplier
  amplitude1 : y.osc1.amplitude = x.osc1.amplitude
  amplitude2 : y.osc2.amplitude = x.osc2.amplitude
  polarity1 : y.osc1.polarity = x.osc1.polarity
  polarity2 : y.osc2.polarity = x.osc2.polarity
  inactive : x.env.isActive = false → y = x

theorem VoiceKept.refl (x : Voice) : VoiceKept x x := by constructor <;> intros <;> rfl

theorem VoiceKept.trans {x y z : Voice} (h : VoiceKept x y) (k : VoiceKept y z) : VoiceKept x z where
  note := k.note.trans h.note
  velocity := k.velocity.trans h.velocity
  period := k.period.trans h.period
  panLeft := k.panLeft.trans h.panLeft
  panRight := k.panRight.trans h.panRight
  attackMultiplier := k.attackMultiplier.trans h.attackMultiplier
  decayMultiplier := k.decayMultiplier.trans h.decayMultiplier
  sustainLevel := k.sustainLevel.trans h.sustainLevel
  releaseMultiplier := k.releaseMultiplier.trans h.releaseMultiplier
  amplitude1 := k.amplitude1.trans h.amplitude1
  amplitude2 := k.amplitude2.trans h.amplitude2
  polarity1 := k.polarity1.trans h.polarity1
  polarity2 := k.polarity2.trans h.polarity2
  inactive hi := by
    have e := h.inactive hi
    rw [← e] at hi
    rw [k.inactive hi, e]

/-! ## The state over a render call -/

/-- What rendering keeps of the state (20_memory.md R111). -/
structure RenderKept (s t : State) : Prop where
  params : t.params = s.params
  engine : t.engine = s.engine
  derived : t.derived = s.derived
  refused : t.refused = s.refused
  firstRefused : t.firstRefused = s.firstRefused
  port : t.port = s.port
  ret : t.ret = s.ret
  periodLow : s.periodLow = true → t.periodLow = true
  voice : ∀ v, VoiceKept (s.voice v) (t.voice v)

theorem RenderKept.refl (s : State) : RenderKept s s :=
  ⟨rfl, rfl, rfl, rfl, rfl, rfl, rfl, id, fun _ => VoiceKept.refl _⟩

theorem RenderKept.trans {s t u : State} (h : RenderKept s t) (k : RenderKept t u) : RenderKept s u where
  params := k.params.trans h.params
  engine := k.engine.trans h.engine
  derived := k.derived.trans h.derived
  refused := k.refused.trans h.refused
  firstRefused := k.firstRefused.trans h.firstRefused
  port := k.port.trans h.port
  ret := k.ret.trans h.ret
  periodLow := fun p => k.periodLow (h.periodLow p)
  voice := fun v => (h.voice v).trans (k.voice v)

theorem RenderKept.param {s t : State} (h : RenderKept s t) (i : Fin 20) : t.param i = s.param i := by
  simp [State.param, h.params]

/-- Replacing the voices by kept ones. -/
theorem renderKept_mapVoices (s : State) (f : VoiceIdx → Voice → Voice) (h : ∀ v, VoiceKept (s.voice v) (f v (s.voice v))) :
    RenderKept s (s.mapVoices f) :=
  ⟨rfl, rfl, rfl, rfl, rfl, rfl, rfl, id, fun v => by rw [State.voice_mapVoices]; exact h v⟩

theorem renderKept_setVoice (s : State) (v : VoiceIdx) (x : Voice) (h : VoiceKept (s.voice v) x) :
    RenderKept s (s.setVoice v x) :=
  ⟨rfl, rfl, rfl, rfl, rfl, rfl, rfl, id, fun w => by
    rw [State.voice_setVoice]; split
    · rename_i e; subst e; exact h
    · exact VoiceKept.refl _⟩

theorem renderKept_setLfo (s : State) (l : Lfo) : RenderKept s (s.setLfo l) :=
  ⟨rfl, rfl, rfl, rfl, rfl, rfl, rfl, id, fun _ => VoiceKept.refl _⟩

theorem renderKept_setSeed (s : State) (w : Word32) : RenderKept s (s.setSeed w) :=
  ⟨rfl, rfl, rfl, rfl, rfl, rfl, rfl, id, fun _ => VoiceKept.refl _⟩

theorem renderKept_setMemory (s : State) (m : Memory) : RenderKept s (s.setMemory m) :=
  ⟨rfl, rfl, rfl, rfl, rfl, rfl, rfl, id, fun _ => VoiceKept.refl _⟩

theorem renderKept_raisePeriodLow (s : State) (b : Bool) : RenderKept s (s.raisePeriodLow b) :=
  ⟨rfl, rfl, rfl, rfl, rfl, rfl, rfl, fun h => by simp [State.raisePeriodLow, h], fun _ => VoiceKept.refl _⟩

/-! ## The operations of the loop -/

theorem voiceKept_refreshVoice (s : State) (x : Voice) (h : x.env.isActive = true) : VoiceKept x (s.refreshVoice x) :=
  ⟨rfl, rfl, rfl, rfl, rfl, rfl, rfl, rfl, rfl, rfl, rfl, rfl, rfl, fun hi => absurd h (by simp [hi])⟩

theorem voiceKept_tickVoice (s : State) (x : Voice) : VoiceKept x (s.tickVoice x) := by
  unfold State.tickVoice
  split
  · rename_i h
    exact ⟨rfl, rfl, rfl, rfl, rfl, rfl, rfl, rfl, rfl, rfl, rfl, rfl, rfl, fun hi => absurd h (by simp [hi])⟩
  · exact VoiceKept.refl x

/-- `nextSample` writes neither the inputs nor the integrator nor the polarity (40_oscillator.md R203). -/
theorem nextSample_kept (o : Osc) :
    o.nextSample.osc.period = o.period ∧ o.nextSample.osc.amplitude = o.amplitude ∧
      o.nextSample.osc.modulation = o.modulation ∧ o.nextSample.osc.saw = o.saw ∧
      o.nextSample.osc.polarity = o.polarity := by
  unfold Osc.nextSample
  split
  · exact ⟨rfl, rfl, rfl, rfl, rfl⟩
  · unfold Osc.insideCycle Osc.reflect
    simp only
    split <;> exact ⟨rfl, rfl, rfl, rfl, rfl⟩

/-- `oscRender` writes neither the inputs nor the polarity (40_oscillator.md R207). -/
theorem oscRender_kept (o : Osc) :
    o.oscRender.osc.period = o.period ∧ o.oscRender.osc.amplitude = o.amplitude ∧
      o.oscRender.osc.modulation = o.modulation ∧ o.oscRender.osc.polarity = o.polarity := by
  obtain ⟨h1, h2, h3, -, h5⟩ := nextSample_kept o
  exact ⟨h1, h2, h3, h5⟩

/-- `nextValue` writes no per-segment register (42_envelope.md R262). -/
theorem nextValue_kept (e : Env) :
    e.nextValue.attackMultiplier = e.attackMultiplier ∧ e.nextValue.decayMultiplier = e.decayMultiplier ∧
      e.nextValue.sustainLevel = e.sustainLevel ∧ e.nextValue.releaseMultiplier = e.releaseMultiplier := by
  unfold Env.nextValue
  simp only
  split <;> exact ⟨rfl, rfl, rfl, rfl⟩

theorem voiceKept_voiceRender (x : Voice) (nz : F32) (h : x.env.isActive = true) :
    VoiceKept x (x.voiceRender nz).voice := by
  obtain ⟨e1, e2, e3, e4⟩ := nextValue_kept x.env
  obtain ⟨-, a2, -, a4⟩ := oscRender_kept x.osc1
  obtain ⟨-, b2, -, b4⟩ := oscRender_kept x.osc2
  exact ⟨rfl, rfl, rfl, rfl, rfl, e1, e2, e3, e4, a2, b2, a4, b4, fun hi => absurd h (by simp [hi])⟩

theorem renderKept_lfoTick (s : State) : RenderKept s s.lfoTick := by
  unfold State.lfoTick
  split
  · exact (renderKept_setLfo s _).trans (renderKept_mapVoices _ _ fun v => voiceKept_tickVoice _ _)
  · exact renderKept_setLfo s _

theorem renderKept_noiseNext (s : State) : RenderKept s s.noiseNext := renderKept_setSeed s _

theorem renderKept_refreshActive (s : State) : RenderKept s s.refreshActive := by
  refine renderKept_mapVoices _ _ fun v => ?_
  split
  · rename_i h; exact voiceKept_refreshVoice s _ h
  · exact VoiceKept.refl _

theorem renderKept_addVoice (nz : F32) (m : Mix) (v : VoiceIdx) : RenderKept m.state (m.addVoice nz v).state := by
  unfold Mix.addVoice
  simp only
  split
  · rename_i h
    exact (renderKept_setVoice _ _ _ (voiceKept_voiceRender _ nz h)).trans (renderKept_raisePeriodLow _ _)
  · exact RenderKept.refl _

theorem renderKept_mixVoices (s : State) (nz : F32) : RenderKept s (s.mixVoices nz).state := by
  have key : ∀ (vs : List VoiceIdx) (m : Mix), RenderKept m.state (vs.foldl (Mix.addVoice nz) m).state := by
    intro vs
    induction vs with
    | nil => exact fun m => RenderKept.refl _
    | cons v vs ih => exact fun m => (renderKept_addVoice nz m v).trans (ih _)
  exact key voiceOrder { state := s, l := K.zero, r := K.zero }

theorem renderKept_renderSample (s : State) (i : Nat) : RenderKept s (s.renderSample i) :=
  (((renderKept_lfoTick s).trans (renderKept_noiseNext _)).trans (renderKept_mixVoices _ _)).trans
    (renderKept_setMemory _ _)

theorem renderKept_renderSamples (s : State) (n : Nat) : RenderKept s (s.renderSamples n) := by
  induction n with
  | zero => exact RenderKept.refl s
  | succ n ih => exact ih.trans (renderKept_renderSample _ n)

/-- The state before the reclaim of a render call. -/
theorem renderKept_loop (s : State) (n : Nat) :
    RenderKept s ((s.setMemory Memory.empty).refreshActive.renderSamples n) :=
  ((renderKept_setMemory s _).trans (renderKept_refreshActive _)).trans (renderKept_renderSamples _ n)

/-! ## Seed, LFO and words -/

/-- The mixer changes neither the seed, nor the LFO, nor the words. -/
theorem mixVoices_shared (s : State) (nz : F32) :
    (s.mixVoices nz).state.seed = s.seed ∧ (s.mixVoices nz).state.lfo = s.lfo ∧
      (s.mixVoices nz).state.memory = s.memory := by
  have key : ∀ (vs : List VoiceIdx) (m : Mix),
      (vs.foldl (Mix.addVoice nz) m).state.seed = m.state.seed ∧
        (vs.foldl (Mix.addVoice nz) m).state.lfo = m.state.lfo ∧
        (vs.foldl (Mix.addVoice nz) m).state.memory = m.state.memory := by
    intro vs
    induction vs with
    | nil => exact fun m => ⟨rfl, rfl, rfl⟩
    | cons v vs ih =>
      intro m
      obtain ⟨h1, h2, h3⟩ := ih (m.addVoice nz v)
      have hm : (m.addVoice nz v).state.seed = m.state.seed ∧ (m.addVoice nz v).state.lfo = m.state.lfo ∧
          (m.addVoice nz v).state.memory = m.state.memory := by
        unfold Mix.addVoice
        simp only
        split <;> exact ⟨rfl, rfl, rfl⟩
      rw [List.foldl_cons]
      exact ⟨h1.trans hm.1, h2.trans hm.2.1, h3.trans hm.2.2⟩
  unfold State.mixVoices
  exact key voiceOrder { state := s, l := K.zero, r := K.zero }

@[simp] theorem mixVoices_seed (s : State) (nz : F32) : (s.mixVoices nz).state.seed = s.seed := (mixVoices_shared s nz).1

@[simp] theorem mixVoices_lfo (s : State) (nz : F32) : (s.mixVoices nz).state.lfo = s.lfo := (mixVoices_shared s nz).2.1

@[simp] theorem mixVoices_memory (s : State) (nz : F32) : (s.mixVoices nz).state.memory = s.memory :=
  (mixVoices_shared s nz).2.2

@[simp] theorem lfoTick_memory (s : State) : s.lfoTick.memory = s.memory := by
  unfold State.lfoTick
  split <;> rfl

@[simp] theorem lfoTick_seed (s : State) : s.lfoTick.seed = s.seed := by
  unfold State.lfoTick
  split <;> rfl

@[simp] theorem lfoTick_step (s : State) :
    s.lfoTick.lfo.step = if s.lfo.step - 1 ≤ 0 then 32 else s.lfo.step - 1 := by
  unfold State.lfoTick
  split <;> rfl

/-- A sample is a tick, a noise step, a mix and two words. -/
theorem renderSample_eq (s : State) (i : Nat) :
    ∃ nz x y, s.renderSample i =
      (s.lfoTick.noiseNext.mixVoices nz).state.setMemory
        (((s.lfoTick.noiseNext.mixVoices nz).state.memory.outWrite .left i x).outWrite .right i y) :=
  Exists.intro _ (Exists.intro _ (Exists.intro _ rfl))

theorem renderSample_memory (s : State) (i : Nat) :
    ∃ x y, (s.renderSample i).memory = (s.memory.outWrite .left i x).outWrite .right i y := by
  obtain ⟨nz, x, y, h⟩ := renderSample_eq s i
  refine Exists.intro x (Exists.intro y ?_)
  rw [h, State.setMemory_memory, mixVoices_memory, State.noiseNext, State.setSeed_memory, lfoTick_memory]

@[simp] theorem renderSample_seed (s : State) (i : Nat) : (s.renderSample i).seed = lcgNext s.seed := by
  obtain ⟨nz, x, y, h⟩ := renderSample_eq s i
  rw [h, State.setMemory_seed, mixVoices_seed, State.noiseNext, State.setSeed_seed, lfoTick_seed]

@[simp] theorem renderSample_step (s : State) (i : Nat) :
    (s.renderSample i).lfo.step = if s.lfo.step - 1 ≤ 0 then 32 else s.lfo.step - 1 := by
  obtain ⟨nz, x, y, h⟩ := renderSample_eq s i
  rw [h, State.setMemory_lfo, mixVoices_lfo, State.noiseNext, State.setSeed_lfo, lfoTick_step]

/-- A sample appends one word to each channel that holds `i` words. -/
theorem renderSample_words (s : State) (i : Nat) (h : ∀ ch, (s.memory.words ch).length = i) :
    ∀ ch, ((s.renderSample i).memory.words ch).length = i + 1 := by
  obtain ⟨x, y, hm⟩ := renderSample_memory s i
  intro ch
  rw [hm]
  have hl := h .left
  have hr := h .right
  cases ch <;> simp [writeWord_length, hl, hr]

theorem renderSamples_words (s : State) (n : Nat) (h : ∀ ch, (s.memory.words ch).length = 0) :
    ∀ ch, ((s.renderSamples n).memory.words ch).length = n := by
  induction n with
  | zero => exact h
  | succ n ih => exact renderSample_words _ n ih

theorem renderSamples_seed (s : State) (n : Nat) : (s.renderSamples n).seed = lcgNext^[n] s.seed := by
  induction n with
  | zero => rfl
  | succ n ih => rw [State.renderSamples, renderSample_seed, ih, Function.iterate_succ_apply']

theorem renderSamples_step (s : State) (n : Nat) :
    (s.renderSamples n).lfo.step = (fun k : Int => if k - 1 ≤ 0 then 32 else k - 1)^[n] s.lfo.step := by
  induction n with
  | zero => rfl
  | succ n ih => rw [State.renderSamples, renderSample_step, ih, Function.iterate_succ_apply']

/-! ## The whole call -/

theorem render_eq (s : State) (n : Nat) :
    s.render n =
      ((((s.setMemory Memory.empty).refreshActive.renderSamples n).reclaim).safetyClamp .left).safetyClamp .right := rfl

/-- A voice after a render call is the loop's, reclaimed. -/
theorem render_voice (s : State) (n : Nat) (v : VoiceIdx) :
    (s.render n).voice v = reclaimVoice (((s.setMemory Memory.empty).refreshActive.renderSamples n).voice v) := by
  rw [render_eq, State.safetyClamp, State.setMemory_voice, State.safetyClamp, State.setMemory_voice, State.reclaim,
    State.voice_mapVoices]

/-- The words after a render call are the loop's, clamped. -/
theorem render_words (s : State) (n : Nat) (ch : Channel) :
    (s.render n).memory.words ch =
      (let ws := ((s.setMemory Memory.empty).refreshActive.renderSamples n).memory.words ch
       if ws.any wordIsCatastrophic then List.replicate ws.length K.zero else ws.map clampWord) := by
  rw [render_eq, State.safetyClamp, State.setMemory_memory, State.safetyClamp, State.setMemory_memory, State.reclaim,
    State.mapVoices_memory, Memory.safetyClamp_eq, Memory.safetyClamp_eq]
  cases ch <;> simp

theorem render_words_length (s : State) (n : Nat) (ch : Channel) : ((s.render n).memory.words ch).length = n := by
  have h := renderSamples_words (s.setMemory Memory.empty).refreshActive n (fun ch => by cases ch <;> rfl) ch
  rw [render_words]
  simp only
  split <;> simp [h]

/-- A render call keeps the canonical form of the output space. -/
theorem wf_render (s : State) (n : Nat) : (s.render n).memory.wf := by
  rw [wf_iff_lengths, render_words_length, render_words_length]

end Sys2Proof.Machine
end

