-- ==== Sys2Proof/Tests/Slice0.lean ====
section
/-! SUPPORT. Tests of the model: ill-formed terms that WellFormed refuses, messages written out byte by byte from
30_encoding.md, vectors of 95_test_vectors.md that no transcendental function enters, and, for every statement with
hypotheses, a state and operands that meet them. -/

namespace Sys2Proof.Tests

open Sys2Proof.Machine Sys2Proof.Safety

-- One test after another: run all at once, they need more threads than the checker's memory limit allows.
set_option Elab.async false

/-! ## Helpers -/

/-- The binary32 value of a bit pattern. -/
abbrev bits (w : Word32) : F32 := .ofBits w

/-- A check of the next state; false where there is none. -/
def nextHas (o : Host.Outcome State Fault Refusal) (p : State → Bool) : Bool :=
  match o with
  | .next t => p t
  | .fault _ => false
  | .refused _ => false

/-- The power-on state after an ALLOC at 44100 Hz, but for the coefficients. -/
def allocatedState : State :=
  { State.reset with engine := { Engine.powerOn with sampleRate := bits 0x472C4400#32, blockSize := 512, allocated := true } }

/-- The same, ready. -/
def readyState : State := { allocatedState with engine := { allocatedState.engine with ready := true } }

/-- A ready state with a voice replaced. -/
def withVoice (v : VoiceIdx) (f : Voice → Voice) : State := readyState.setVoice v (f (readyState.voice v))

/-- A ready state with osc1 of voice 0 at the given inputs. -/
def withOsc1 (period amplitude modulation : F32) : State :=
  withVoice 0 fun x => { x with osc1 := { x.osc1 with period := period, amplitude := amplitude, modulation := modulation } }

/-- A ready state with the envelope of voice 0 at the given level, target and multiplier. -/
def withEnv (level target multiplier : F32) : State :=
  withVoice 0 fun x => { x with env := { x.env with level := level, target := target, multiplier := multiplier } }

/-- A ready state with the eight voices at the given levels and targets. -/
def withLevels (l : Vector (F32 × F32) 8) : State :=
  readyState.mapVoices fun v x => { x with env := { x.env with level := l[v].1, target := l[v].2 } }

/-- A ready state with words in the left channel. -/
def withLeft (ws : List F32) : State := { readyState with memory := { left := ws, right := ws } }

/-- A ready state in which every base period is NaN, so that no period is below 6. -/
def nanTune : State :=
  { readyState with derived := { Derived.powerOn with tuneBase := .nan, detune := K.one } }

/-- The left channel's words after an instruction. -/
def leftWords (o : Host.Outcome State Fault Refusal) : Option (List F32) :=
  match o with
  | .next t => some t.memory.left
  | .fault _ => none
  | .refused _ => none

/-! ## WellFormed -/

theorem test_wf_noteOn_zero_velocity : (Instr.midiNoteOn 0x0 0x3C 0x00).wellFormed = false := by decide
theorem test_wf_ccOther_sustain : (Instr.midiCcOther 0x0 0x40 0x7F).wellFormed = false := by decide
theorem test_wf_ccOther_panic : (Instr.midiCcOther 0x0 0x78 0x00).wellFormed = false := by decide
theorem test_wf_calcPeriod_note : (Instr.calcPeriod 0 128).wellFormed = false := by decide
theorem test_wf_startVoice_note : (Instr.startVoice 0 128 100).wellFormed = false := by decide
theorem test_wf_startVoice_velocity : (Instr.startVoice 0 60 128).wellFormed = false := by decide
theorem test_wf_engineNoteOn_zero_velocity : (Instr.noteOn 60 0).wellFormed = false := by decide
theorem test_wf_engineNoteOn_note_and_velocity :
    (Instr.noteOn 128 1).wellFormed = false ∧ (Instr.noteOn 60 128).wellFormed = false := by decide
theorem test_wf_noteOff_range :
    (Instr.noteOff (-2)).wellFormed = false ∧ (Instr.noteOff 128).wellFormed = false := by decide
theorem test_wf_controlChange :
    (Instr.controlChange 128 0).wellFormed = false ∧ (Instr.controlChange 0x40 128).wellFormed = false := by decide
theorem test_wf_sustainPedalChange : (Instr.sustainPedalChange 128).wellFormed = false := by decide
theorem test_wf_setPitchBend :
    (Instr.setPitchBend (-8193)).wellFormed = false ∧ (Instr.setPitchBend 8192).wellFormed = false := by decide

theorem test_wf_pseudo_noteon_zero : (PseudoCommand.noteOn 60 0).wellFormed = false := by decide

/-! ## Decoding (95_test_vectors.md V-MIDI-D): the bytes written as bits, status nibble first -/

theorem test_decode_noteOn : decode [0b10010000#8, 0b00111100#8, 0b01100100#8] = .ok (.midiNoteOn 0 60 100) := by decide
theorem test_decode_noteOn_masks : decode [0b10010101#8, 0b10111100#8, 0b11100100#8] = .ok (.midiNoteOn 5 60 100) := by
  decide
theorem test_decode_noteOnV0 : decode [0b10010000#8, 0b00111100#8, 0b10000000#8] = .ok (.midiNoteOnV0 0 60) := by decide
theorem test_decode_noteOnV0_short : decode [0b10010000#8] = .ok (.midiNoteOnV0 0 0) := by decide
theorem test_decode_noteOff : decode [0b10000000#8, 0b00111100#8, 0b01000000#8] = .ok (.midiNoteOff 0 60 64) := by decide
theorem test_decode_polyPressure :
    decode [0b10100000#8, 0b00111100#8, 0b01000000#8] = .ok (.midiIgnPolyPressure 0 60 64) := by decide
theorem test_decode_ccSustain : decode [0b10110000#8, 0b11000000#8, 0b01111111#8] = .ok (.midiCcSustain 0 127) := by decide
theorem test_decode_ccPanic_lowest : decode [0b10110000#8, 0b01111000#8, 0b00000000#8] = .ok (.midiCcPanic 0 0 0) := by decide
theorem test_decode_ccPanic_highest : decode [0b10110000#8, 0b01111111#8, 0b01111111#8] = .ok (.midiCcPanic 0 7 127) := by
  decide
theorem test_decode_ccOther : decode [0b10110000#8, 0b01110111#8, 0b00000000#8] = .ok (.midiCcOther 0 0x77 0) := by decide
theorem test_decode_program : decode [0b11000000#8, 0b00000101#8] = .ok (.midiIgnProgram 0 5 0) := by decide
theorem test_decode_channelPressure : decode [0b11010000#8, 0b01000000#8] = .ok (.midiIgnChannelPressure 0 64 0) := by decide
theorem test_decode_pitchBend : decode [0b11100000#8, 0b00000000#8, 0b01000000#8] = .ok (.midiPitchBend 0 0 64) := by decide
theorem test_decode_system : decode [0b11111000#8] = .ok (.midiIgnSystem 8 0 0) := by decide
theorem test_decode_data : decode [0b00111100#8, 0b01100100#8] = .ok (.midiIgnData 3 12 100 0) := by decide
theorem test_decode_empty : decode [] = .error .emptyMessage := by decide
theorem test_decode_long : decode [0x90#8, 0x3C#8, 0x64#8, 0x00#8] = .error .longMessage := by decide

/-- The pseudo-commands of R146, the bytes as its table and 95_test_vectors.md's PR3 and PR4 write them; `bend` at both ends. -/
theorem test_pseudo_commands :
    PseudoCommand.toCommand (.noteOn 60 100) = .midi [0x90, 0x3C, 0x64] ∧
      PseudoCommand.toCommand (.noteOff 60) = .midi [0x80, 0x3C, 0x00] ∧
      PseudoCommand.toCommand .pedalDown = .midi [0xB0, 0x40, 0x7F] ∧
      PseudoCommand.toCommand .panic = .midi [0xB0, 0x7B, 0x00] ∧
      PseudoCommand.toCommand (.bend 0) = .midi [0xE0, 0x00, 0x00] ∧
      PseudoCommand.toCommand (.bend 16383) = .midi [0xE0, 0x7F, 0x7F] ∧
      PseudoCommand.toCommand (.bend 8192) = PseudoCommand.toCommand .bendCenter := by decide

/-- `midi 90 <n> 00` is a note-off (R133 row 3, R146): it releases the note it was started with. -/
theorem test_note_on_velocity_zero_releases :
    nextHas (exec (.hostMidi (PseudoCommand.bytes (.noteOn 60 0)))
        (readyState.setVoice 3 { readyState.voice 3 with note := 60 }))
      (fun t => (t.voice 3).note == 0 && (t.voice 3).env.target == K.zero && !t.refused) = true := by decide +kernel

/-- Operand assembly (V-MIDI-B). -/
theorem test_bendSigned : bendSigned 0 0 = -8192 ∧ bendSigned 0x7F 0x3F = -1 ∧ bendSigned 0x7F 0x7F = 8191 := by decide

/-- The table's numbering: `903C64`. -/
theorem test_decodeTableWord : decodeTableWord 24 0x903C64 = some (.midiNoteOn 0 60 100) := by decide

/-- At power-on a message is refused (V-HOST-3, R374). -/
theorem test_step_message_at_power_on :
    nextHas (step (State.reset.setPort [.midi [0x90, 0x3C, 0x64]]))
      (fun t => t.refused && t.firstRefused == some (.midi [0x90, 0x3C, 0x64]) && t.port.isEmpty) = true := by
  decide +kernel

/-- `withFetchWord` boots the block (R435), so the very next step runs the message, from power-on too. -/
theorem test_step_fetched_message_at_power_on :
    nextHas (step (State.reset.withFetchWord 24 0xB0407F))
      (fun t => t.engine.sustainPedal && !t.refused && t.port.isEmpty) = true := by
  decide +kernel

/-- A ready block's pedal-down message. -/
theorem test_step_fetched_pedal_down :
    nextHas (step (readyState.withFetchWord 24 0xB0407F)) (fun t => t.engine.sustainPedal && !t.refused) = true := by
  decide +kernel

/-! ## Oscillator (V-OSC; no transcendental function enters the first sample after a reset) -/

/-- V-OSC-1. -/
theorem test_nextSample_first :
    nextHas (exec (.nextSample 0 .osc1) (withOsc1 (bits 0x42C8745D#32) K.half K.one)) (fun t =>
      t.ret == .word (bits 0x3EFD6A05#32) && (t.voice 0).osc1.inc == bits 0x40469996#32 &&
      (t.voice 0).osc1.dc == bits 0x3BA57EB5#32 && !t.periodLow) = true := by decide +kernel

/-- V-OSC-5: `period = 5.9` raises the fault and returns 0.8. -/
theorem test_nextSample_period_low :
    nextHas (exec (.nextSample 0 .osc1) (withOsc1 (F32.nearest 59 10) K.one K.one)) (fun t =>
      t.ret == .word (F32.nearest 8 10) && t.periodLow) = true := by decide +kernel

/-- V-OSC-3, index 0. -/
theorem test_oscRender_first :
    nextHas (exec (.oscRender 0 .osc1) (withOsc1 K.hundred K.one K.one)) (fun t =>
      t.ret == .word (bits 0x3F7D6A05#32) && (t.voice 0).osc1.saw == bits 0x3F7D6A05#32) = true := by decide +kernel

/-- V-OSC-4: `period = 6` raises no fault. -/
theorem test_nextSample_shortest_period :
    nextHas (exec (.nextSample 0 .osc1) (withOsc1 K.six K.one K.one)) (fun t =>
      t.ret == .word (F32.nearest 8 10) && !t.periodLow) = true := by decide +kernel

/-- V-OSC-8. -/
theorem test_squareWave_never_started :
    nextHas (exec (.squareWave 0 K.hundred) (withOsc1 K.hundred K.one K.one)) (fun t =>
      (t.voice 0).osc2.phase == bits 0x4319F024#32 && (t.voice 0).osc2.phaseMax == bits 0x4319F024#32 &&
      (t.voice 0).osc2.inc == K.pi && (t.voice 0).osc2.polarity == K.one.neg) = true := by decide +kernel

/-! ## Filter (V-FILT-1, V-FILT-2: the first output of the step response is a3) -/

theorem test_filterRender_first_step :
    nextHas (exec (.filterRender 0 K.one) (withVoice 0 fun x => { x with filter :=
      { x.filter with a1 := bits 0x3F6775B4#32, a2 := bits 0x3D842221#32, a3 := bits 0x3B96DC9B#32 } })) (fun t =>
        t.ret == .word (bits 0x3B96DC9B#32)) = true := by decide +kernel

/-! ## Envelope -/

/-- R261's example. -/
theorem test_attack_from_three_tenths :
    nextHas (exec (.attack 0) (withEnv (F32.nearest 3 10) K.zero K.zero)) (fun t =>
      (t.voice 0).env.level == bits 0x3E99B3D1#32 && (t.voice 0).env.target == K.two) = true := by decide +kernel

/-- V-ENV-4: the first release value. -/
theorem test_nextValue_release :
    nextHas (exec (.nextValue 0) (withEnv K.one K.zero (bits 0x3F7FD9AF#32))) (fun t =>
      t.ret == .word (bits 0x3F7FD9AF#32)) = true := by decide +kernel

/-- By hand: 0.5·(1 - 2) + 2 = 1.5, and 1.5 + 2 > 3. -/
theorem test_nextValue_transition :
    nextHas (exec (.nextValue 0) (withVoice 0 fun x => { x with env :=
      { x.env with level := K.one, target := K.two, multiplier := K.half, decayMultiplier := K.leak,
                   sustainLevel := K.half } })) (fun t =>
        t.ret == .word (F32.nearest 3 2) && (t.voice 0).env.multiplier == K.leak &&
        (t.voice 0).env.target == K.half) = true := by decide +kernel

/-- R266's example: exactly SILENCE is not active. -/
theorem test_isActive_at_silence :
    nextHas (exec (.isActive 0) (withEnv K.silence K.zero K.zero)) (fun t => t.ret == .flag false) = true := by
  decide +kernel

/-! ## LFO and noise -/

/-- V-NOISE-1. -/
theorem test_noiseNext_first :
    nextHas (exec .noiseNext State.reset) (fun t => t.seed == 0xEEF79411#32 && t.ret == .word (bits 0x3F5DEF28#32)) =
      true := by decide +kernel

theorem test_noiseNext_fourth :
    nextHas (exec .noiseNext { State.reset with seed := 0xFBD5FB1B#32 }) (fun t =>
      t.seed == 0x6BC14C02#32 && t.ret == .word (bits 0xBE21F5A0#32)) = true := by decide +kernel

/-- R291's corner case: the first sample after RESET is a tick. -/
theorem test_lfoTick_counts :
    nextHas (exec .lfoTick State.reset) (fun t => t.lfo.step == 32) = true ∧
      nextHas (exec .lfoTick { State.reset with lfo := { Lfo.powerOn with step := 32 } }) (fun t =>
        t.lfo == { Lfo.powerOn with step := 31 }) = true := by decide +kernel

/-! ## Engine -/

/-- V-ENG-3 and V-ENG-4. -/
theorem test_findFreeVoice_inactive_first :
    nextHas (exec .findFreeVoice (withLevels #v[(K.one, K.two), (K.half, K.zero), (F32.nearest 3 10, K.zero),
      (F32.nearest 3 10, K.zero), (K.zero, K.zero), (K.zero, K.zero), (K.zero, K.zero), (K.zero, K.zero)])) (fun t =>
        t.ret == .voice 4) = true := by decide +kernel

theorem test_findFreeVoice_lowest :
    nextHas (exec .findFreeVoice (withLevels #v[(K.one, K.two), (K.half, K.zero), (F32.nearest 3 10, K.two),
      (F32.nearest 2 10, K.zero), (K.one, K.zero), (K.one, K.zero), (K.one, K.zero), (K.one, K.zero)])) (fun t =>
        t.ret == .voice 3) = true := by decide +kernel

/-- V-MAP-2: 3.5156653 is doubled once. -/
theorem test_doubling_once : doublePeriod K.one Config.doublingFuel (bits 0x406100A9#32) = some (bits 0x40E100A9#32) := by
  decide +kernel

/-- V-ENG-8, first half: a note-off under the pedal marks the slot. -/
theorem test_noteOff_under_pedal :
    nextHas (exec (.noteOff 60) ((withVoice 0 fun x => { x with note := 60 }).setSustainPedal true)) (fun t =>
      (t.voice 0).note == -1 && (t.voice 1).note == 0) = true := by decide +kernel

/-- V-ENG-8, second half: pedal-up releases it. -/
theorem test_pedal_up_releases :
    nextHas (exec (.sustainPedalChange 63) ((withVoice 0 fun x =>
      { x with note := -1, env := { x.env with target := K.one } }).setSustainPedal true)) (fun t =>
        (t.voice 0).note == 0 && (t.voice 0).env.target == K.zero && !t.engine.sustainPedal) = true := by decide +kernel

/-! ## Host calls (V-HOST, V-CLAMP) -/

/-- R390, D28: a write after a DEALLOC derives (V-HOST-12's value). -/
theorem test_setParam_after_dealloc :
    nextHas (exec .hostDealloc readyState) (fun s =>
      nextHas (exec (.hostSetParam 3 K.half) s) (fun t =>
        t.derived.envRelease == bits 0x3F400000#32 && !t.engine.allocated && !t.refused)) = true := by decide +kernel

/-- R389: a write before ALLOC is stored and not derived (V-HOST-13). -/
theorem test_setParam_not_allocated :
    nextHas (exec (.hostSetParam 3 K.half) State.reset) (fun t =>
      t.param 3 == K.half && t.derived == Derived.powerOn && !t.refused) = true := by decide +kernel

/-- V-HOST-1, V-HOST-2. -/
theorem test_render_and_reset_at_power_on :
    nextHas (exec (.hostRender 4) State.reset) (fun t => t.firstRefused == some (.render 4)) = true ∧
      nextHas (exec .hostReset State.reset) (fun t => t.firstRefused == some .reset) = true := by decide +kernel

/-- V-HOST-7: 8000 Hz, block size 1. -/
theorem test_alloc_lowest :
    nextHas (exec (.hostAlloc (F32.nearest 8000 1) 1) State.reset) (fun t =>
      t.derived.tuneBase == bits 0x44749FD9#32 && t.derived.cutoffMax == F32.nearest 3600 1 && t.engine.allocated &&
      !t.engine.ready && !t.refused) = true := by decide +kernel

/-- V-HOST-12. -/
theorem test_setParam_fast_release :
    nextHas (exec (.hostSetParam 3 K.half) allocatedState) (fun t =>
      t.param 3 == K.half && t.derived.envRelease == bits 0x3F400000#32 && !t.refused) = true := by decide +kernel

/-- V-HOST-8, V-HOST-10, V-HOST-11. -/
theorem test_setParam_refused :
    nextHas (exec (.hostSetParam 20 K.zero) readyState) (fun t => t.refused) = true ∧
      nextHas (exec (.hostSetParam 16 K.half) readyState) (fun t => t.refused && t.param 16 == K.one) = true ∧
      nextHas (exec (.hostSetParam 11 (F32.nearest 29 1)) readyState) (fun t => t.refused) = true := by decide +kernel

/-- V-HOST-15. -/
theorem test_render_three_idle :
    nextHas (exec (.hostRender 3) readyState) (fun t =>
      t.memory == { left := [K.zero, K.zero, K.zero], right := [K.zero, K.zero, K.zero] } && t.lfo.step == 30 &&
      t.seed == 0xFBD5FB1B#32) = true := by decide +kernel

/-- V-CLAMP, rows 1 and 4. -/
theorem test_safetyClamp_limits :
    leftWords (exec (.safetyClamp .left) (withLeft [K.half, F32.nearest 3 2, (F32.nearest 3 10).neg])) =
        some [K.half, K.one, (F32.nearest 3 10).neg] ∧
      leftWords (exec (.safetyClamp .left) (withLeft [K.two, K.two.neg])) = some [K.one, K.one.neg] := by decide +kernel

/-- V-CLAMP, rows 2, 7 and 8. -/
theorem test_safetyClamp_silences :
    leftWords (exec (.safetyClamp .left) (withLeft [K.half, .nan, K.half])) = some [K.zero, K.zero, K.zero] ∧
      leftWords (exec (.safetyClamp .left) (withLeft [.inf true])) = some [K.zero] ∧
      leftWords (exec (.safetyClamp .left) (withLeft [K.half, bits 0x40000001#32])) = some [K.zero, K.zero] := by
  decide +kernel

/-- R376's example: a level of 0.00009 at the end of a render call. -/
theorem test_reclaim_below_silence :
    nextHas (exec .reclaim (withEnv (F32.nearest 9 100000) K.zero K.half)) (fun t =>
      (t.voice 0).env.level == K.zero && (t.voice 0).env.multiplier == K.zero) = true := by decide +kernel

/-! ## Witnesses: the hypotheses of each statement are met -/

/-! ### Numbers and encoding -/

theorem test_witness_ArithmeticRoundsToNearestEven : F32.units 0 1#23 ≠ 0 ∧ F32.units 254 0x7FFFFF#23 ≠ 0 := by decide +kernel
/-- Operands of each clause; both cases of the products and quotients with a special operand. -/
theorem test_witness_OperatorsFlushAndCompareOrdered :
    F32.nan.isNaN = true ∧ (F32.num true 0 0).flush = .num true 0 0 ∧
      (F32.num false 254 0x7FFFFF#23).flush = .num false 254 0x7FFFFF#23 ∧ F32.signed true 0 0#23 = 0 ∧
      F32.signed true 0 1#23 ≠ 0 := ⟨rfl, rfl, rfl, rfl, by decide⟩
/-- IEEE 754: 1 / -0 is -infinity, 0 · infinity and infinity - infinity are NaN. -/
theorem test_special_operands :
    K.one.div (F32.zero true) = .inf true ∧ K.zero.mul (.inf false) = .nan ∧ (F32.inf false).sub (.inf false) = .nan := by
  decide +kernel
theorem test_witness_ConversionsAreExact : (16777216 : Int).natAbs ≤ 2 ^ 24 ∧ (-16777216 : Int).natAbs ≤ 2 ^ 24 := by decide
theorem test_witness_PhaseThresholdIsNoBinary32Value :
    (F32.num true 0 0).isSubnormal = false ∧ (F32.num false 1 0).isSubnormal = false := by decide
theorem test_witness_DecodeOfEncodeIsIdentity :
    (Instr.midiNoteOn 15 127 1).wellFormed = true ∧ (Instr.midiCcOther 0 0 0).wellFormed = true ∧
      (Instr.midiCcOther 0 0x3F 0).wellFormed = true ∧ (Instr.midiCcOther 0 0x41 0).wellFormed = true ∧
      (Instr.midiCcOther 0 0x77 0x7F).wellFormed = true := by decide
/-- Also the premise of IgnoredMessagesChangeNothing, MessagesRunTheirOperations, RenderedWordsAreBounded and
RenderKeepsTheSnapshotAndCounts. -/
theorem test_witness_ChannelAndHighDataBitsAreIgnored : readyState.engine.ready = true := rfl

/-! ### Steps -/

theorem test_witness_StepExecutesTheNextCommand :
    ({ readyState with port := [.render 1, .dealloc] }).port = Command.render 1 :: [.dealloc] ∧ readyState.port = [] :=
  ⟨rfl, rfl⟩
theorem test_witness_StepRunsTheDecodedMessage :
    ({ readyState with port := [.midi [0x90, 0x3C, 0x64]] }).port = Command.midi [0x90, 0x3C, 0x64] :: [] ∧
      ({ readyState with port := [.midi [0x90, 0x3C, 0x64]] }).engine.ready = true ∧
      decode [0x90, 0x3C, 0x64] = .ok (.midiNoteOn 0 60 100) := ⟨rfl, rfl, by decide⟩

/-! ### Units -/

/-- Both branches, and the reflection. -/
theorem test_witness_NextSampleStepsImpulseTrain :
    K.piOver4.le K.piOver4 = true ∧ K.one.le K.piOver4 = false ∧ K.two.gt K.one = true := by decide +kernel
theorem test_witness_OscRenderIntegratesTheTrain :
    isFinite (F32.inf true) = false ∧ isFinite F32.nan = false := ⟨rfl, rfl⟩
theorem test_witness_SquareWaveLocksHalfACycleBehind :
    K.pi.gt K.zero = true ∧ K.pi.neg.gt K.zero = false ∧ K.pi.neg.lt K.zero = true ∧ K.zero.gt K.zero = false ∧
      K.zero.lt K.zero = false := by decide +kernel
theorem test_witness_FilterResetZeroesAndSilences :
    isFinite (F32.num true 254 0x7FFFFF#23) = true ∧ isFinite (F32.num false 0 1#23) = true := by decide
theorem test_witness_AttackKicksTheLevel :
    (readyState.voice 0).env.level = K.zero ∧
      ((withEnv (F32.zero true) K.zero K.zero).voice 0).env.level.ge K.zero = true := ⟨rfl, by decide +kernel⟩
/-- Above the trigger, and exactly at it. -/
theorem test_witness_NextValueStepsTheEnvelope :
    ((F32.nearest 3 2).add K.two).gt K.three = true ∧ (K.one.add K.two).gt K.three = false := by decide +kernel
/-- A tick with an active and an inactive voice, and a sample between two ticks. -/
theorem test_witness_LfoTickUpdatesActiveVoices :
    (1 : Int) - 1 ≤ 0 ∧ ¬ (2 : Int) - 1 ≤ 0 ∧
      ((withEnv K.one K.zero K.zero).voice 0).env.level.gt K.silence = true ∧
      ((withEnv K.silence K.zero K.zero).voice 0).env.level.gt K.silence = false := by decide +kernel
theorem test_witness_VoiceUpdateSaturatesPan :
    (∀ n ∈ [(-1 : Int), 0, 36], -1 ≤ n ∧ n ≤ 36 ∧ ((withVoice 0 fun x => { x with note := n }).voice 0).note = n) ∧
      (∀ n ∈ [(84 : Int), 127], 84 ≤ n ∧ n ≤ 127 ∧ ((withVoice 0 fun x => { x with note := n }).voice 0).note = n) ∧
      ((withVoice 0 fun x => { x with note := 60 }).voice 0).note = 60 := by decide +kernel

/-! ### Engine -/

/-- A state with a candidate (every idle voice), and one with none (V-ENG-6). -/
theorem test_witness_FindFreeVoiceTakesLowestCandidate :
    Candidate readyState 0 ∧ ∀ i, ¬ Candidate (withLevels (Vector.replicate 8 (K.one, K.two))) i := by
  unfold Candidate; decide +kernel

theorem nanTune_basePeriod (v : VoiceIdx) (note : Nat) : nanTune.basePeriod v note = .nan := rfl

/-- The first and the third clause, at `k = 0`: a NaN period is not short. -/
theorem test_witness_CalcPeriodDoublesUntilLongEnough :
    (F32.nan.lt K.six = false ∧ (F32.nan.mul K.one).lt K.six = false) ∧
      (nanTune.basePeriod 0 127).le K.zero = false ∧ nanTune.detuneEff.lt K.zero = false :=
  ⟨⟨rfl, rfl⟩, rfl, by decide +kernel⟩

/-- A ready state with the given period of MIDI note 0. -/
def withTune (p : F32) : State := { readyState with derived := { Derived.powerOn with tuneBase := p, detune := K.one } }

theorem basePeriod_withTune (p : F32) (h : (K.ln2Over12.neg.mul ((withTune p).pitch 0 0)).exp = K.one) :
    (withTune p).basePeriod 0 0 = p.mul K.one := congrArg p.mul h

/-- The first clause at `k = 1` (V-MAP-2's period, doubled once). A base period is a product with a value of `F.exp`, so
this witness takes `F.exp` of its argument, which is -0.0, to be 1 (45_engine_midi.md R347: so under the reference `F`). -/
theorem test_witness_CalcPeriod_doubled_once
    (h : (K.ln2Over12.neg.mul ((withTune (bits 0x406100A9#32)).pitch 0 0)).exp = K.one) :
    ((withTune (bits 0x406100A9#32)).basePeriod 0 0).lt K.six = true ∧
      (doubledTimes ((withTune (bits 0x406100A9#32)).basePeriod 0 0) 1).lt K.six = false ∧
      ((doubledTimes ((withTune (bits 0x406100A9#32)).basePeriod 0 0) 1).mul (withTune (bits 0x406100A9#32)).detuneEff).lt
        K.six = false := by
  rw [basePeriod_withTune _ h]; decide +kernel

/-- The second clause: the coefficients' power-on value 0.0 (the same premise). -/
theorem test_witness_CalcPeriod_endless (h : (K.ln2Over12.neg.mul ((withTune K.zero).pitch 0 0)).exp = K.one) (k : Nat) :
    (doubledTimes ((withTune K.zero).basePeriod 0 0) k).lt K.six = true := by
  have hz : doubledTimes ((withTune K.zero).basePeriod 0 0) k = K.zero := by
    rw [basePeriod_withTune _ h, show K.zero.mul K.one = K.zero by decide +kernel]
    induction k with
    | zero => rfl
    | succ k ih => rw [doubledTimes, ih]; decide +kernel
  rw [hz]; decide +kernel

theorem test_witness_StartVoiceLoadsTheSlot :
    exec (.calcPeriod 0 60) nanTune = .next { nanTune with ret := .word .nan } := by
  show (match nanTune.calcPeriod 0 60 with
    | none => Host.Outcome.fault Fault.periodLoopDiverges
    | some p => .next (nanTune.setRet (.word p))) = _
  rfl

theorem test_witness_NoteStartsComplete :
    PeriodLoopEnds nanTune 60 ∧ nanTune.engine.ready = true ∧ (60#7 : Data7).toNat = 60 ∧
      (([0x90#8, 0xBC#8] : List Byte).getD 1 0).toNat % 128 = 60 :=
  ⟨⟨fun _ => rfl, by decide +kernel⟩, rfl, rfl, rfl⟩

theorem test_witness_NoteOffReleasesOrMarksEveryMatch :
    ((withVoice 3 fun x => { x with note := 64 }).voice 3).note = 64 ∧ readyState.engine.sustainPedal = false ∧
      (readyState.setSustainPedal true).engine.sustainPedal = true := by decide +kernel
theorem test_witness_SustainPedalUpReleasesMarked :
    64 ≤ 64 ∧ 63 < 64 ∧ ((withVoice 3 fun x => { x with note := -1 }).voice 3).note = -1 := by decide +kernel
theorem test_witness_MessagesRunTheirOperations :
    (Instr.midiCcOther 0 0x77 0).wellFormed = true ∧ ¬ (0x77 = 0x40) ∧ ¬ 0x78 ≤ 0x77 ∧ 0x78 ≤ 0x78 := by decide
theorem test_witness_IgnoredMessagesChangeNothing :
    ([] : List Byte).length = 0 ∧ 3 < ([0x90#8, 0x3C#8, 0x64#8, 0x00#8] : List Byte).length := by decide
theorem test_witness_MidiRunsItsRowOrIsRefused :
    decode [0x80, 0x3C, 0x40] = .ok (.midiNoteOff 0 60 64) ∧ encode (.midiNoteOff 0 60 64) = some [0x80, 0x3C, 0x40] ∧
      readyState.engine.ready = true ∧ State.reset.engine.ready = false := by decide +kernel

/-! ### Host calls -/

/-- Legal operands at both ends, and each illegal one (V-HOST-4 to V-HOST-6). -/
theorem test_witness_AllocRecordsAndDerives :
    (∀ x ∈ [F32.nearest 8000 1, F32.nearest 192000 1],
      x.isNaN = false ∧ x.lt K.sampleRateMin = false ∧ x.gt K.sampleRateMax = false) ∧ ¬ (1 : Int) < 1 ∧
      F32.nan.isNaN = true ∧ (F32.nearest 7999 1).lt K.sampleRateMin = true ∧
      (F32.nearest 192001 1).gt K.sampleRateMax = true ∧ (0 : Int) < 1 := by decide +kernel
theorem test_witness_ResetIdlesTheBlock :
    State.reset.engine.allocated = false ∧ allocatedState.engine.allocated = true := ⟨rfl, rfl⟩
/-- Also the premise of InactiveVoiceIsFrozen. -/
theorem test_witness_ReclaimResetsInactiveVoices :
    ((withEnv K.one K.zero K.zero).voice 0).env.level.gt K.silence = true ∧
      (readyState.voice 0).env.level.gt K.silence = false := by decide +kernel
/-- A channel for each case: 2.0 is limited, the next value above it silences. -/
theorem test_witness_SafetyClampSilencesOrLimits :
    K.two.gt K.two = false ∧ (bits 0x40000001#32).gt K.two = true ∧ Channel.right ≠ Channel.left := by decide +kernel
/-- The ids at the ends; P0 at both ends of its range and just outside; a switch at each value and between. -/
theorem test_witness_SetParamWritesOneRegister :
    (-1 : Int) < 0 ∧ (20 : Int) ≤ 20 ∧
      (∀ x ∈ [K.zero, K.hundred], x.lt (K.paramTable[0]).lo = false ∧ x.gt (K.paramTable[0]).hi = false) ∧
      (bits 0x42C80001#32).gt (K.paramTable[0]).hi = true ∧ K.one.neg.lt (K.paramTable[0]).lo = true ∧
      (K.paramTable[19]).isSwitch = true ∧ K.half.eq K.zero = false ∧ K.half.eq K.one = false ∧
      K.one.gt (K.paramTable[19]).hi = false ∧ K.one.eq K.one = true ∧
      allocatedState.engine.allocated = true ∧ State.reset.engine.allocated = false ∧
      State.reset.engine.sampleRate.eq K.zero = true ∧ readyState.engine.sampleRate.eq K.zero = false := by decide +kernel
/-- Also a first word, a word just past the last one (an append) and one that is written again. -/
theorem test_witness_RenderRunsTheSampleLoop :
    State.reset.engine.ready = false ∧ readyState.engine.ready = true ∧
      0 ≤ (Memory.empty.words .left).length ∧ 1 ≤ ((withLeft [K.one]).memory.words .left).length ∧
      0 < ((withLeft [K.one]).memory.words .left).length ∧ Channel.right ≠ Channel.left := by decide
theorem test_witness_InactiveVoiceIsFrozen :
    readyState.engine.ready = true ∧ (readyState.voice 7).env.level.gt K.silence = false := ⟨rfl, by decide +kernel⟩
theorem test_witness_IdleBlockRendersZeros :
    readyState.engine.ready = true ∧ (∀ v, (readyState.voice v).env.level.gt K.silence = false) ∧
      paramValueBad 15 (readyState.param 15) = false := by decide +kernel

/-! ### Whole-machine rules -/

/-- A state, other than power-on, that meets the invariant, and a command. -/
def invState : State := { State.reset with seed := 7#32, port := [.setParam 9 K.half], periodLow := true }

theorem test_witness_StepKeepsTheInvariant : Inv invState ∧ nextHas (step invState) (fun _ => true) = true := by
  refine ⟨?_, by decide +kernel⟩
  constructor
  · rfl
  · intro ch x hx; cases ch <;> simp [invState, State.reset, Memory.words] at hx
  · decide +kernel
  · decide +kernel
  · intro h; exact absurd h (by decide)
  · intro h; exact absurd h (by decide)
  · intro h; exact absurd h (by decide)
  · decide
  · decide +kernel
  · intro _; decide +kernel
  · decide

/-- An allocated block that meets the invariant (its coefficients current), and a DEALLOC. -/
def invAllocState : State :=
  (({ State.reset with port := [.dealloc] } : State).setEngine
    { State.reset.engine with sampleRate := F32.ofInt 44100, blockSize := 512, allocated := true }).derive

theorem test_witness_StepKeepsTheInvariant_allocated :
    Inv invAllocState ∧ invAllocState.hasBeenAllocated = true ∧
      nextHas (step invAllocState) (fun t => t.hasBeenAllocated) = true := by
  refine ⟨?_, by decide +kernel, by decide +kernel⟩
  constructor
  · rfl
  · intro ch x hx; cases ch <;> exact absurd (show x ∈ ([] : List F32) from hx) List.not_mem_nil
  · decide +kernel
  · decide +kernel
  · intro h; exact absurd h (by decide)
  · intro _; decide +kernel
  · intro _; exact ⟨rfl, rfl⟩
  · decide +kernel
  · decide +kernel
  · intro _; decide +kernel
  · decide

/-- Both records set, and an instruction that completes. -/
theorem test_witness_RecordsAreSticky :
    nextHas (exec .hostReset { allocatedState with periodLow := true, refused := true, firstRefused := some .reset })
      (fun t => t.periodLow && t.refused) = true := by decide +kernel
theorem test_witness_RefusalHasNoOtherEffect :
    refuses State.reset .reset = true ∧ refuses readyState .reset = false ∧
      nextHas (exec Command.reset.toInstr readyState) (fun _ => true) = true := by decide +kernel
/-- Each clause's register changes somewhere. -/
theorem test_witness_RegistersAreWrittenOnlyByTheirRules :
    nextHas (exec .noiseNext readyState) (fun t => t.seed != readyState.seed) = true ∧
      nextHas (exec .lfoTick readyState) (fun t => t.lfo != readyState.lfo) = true ∧
      nextHas (exec .hostDealloc readyState) (fun t =>
        t.engine.allocated != readyState.engine.allocated && t.engine.ready != readyState.engine.ready) = true ∧
      nextHas (exec (.sustainPedalChange 64) readyState) (fun t =>
        t.engine.sustainPedal != readyState.engine.sustainPedal) = true ∧
      nextHas (exec (.nextSample 0 .osc1) (withOsc1 (F32.nearest 59 10) K.one K.one)) (fun t => t.periodLow) = true ∧
      nextHas (exec (.hostRender 1) readyState) (fun t => t.memory != readyState.memory) = true ∧
      nextHas (exec (.hostAlloc K.sampleRateMin 1) readyState) (fun t =>
        t.engine.sampleRate != readyState.engine.sampleRate && t.derived.tuneBase != readyState.derived.tuneBase) = true ∧
      nextHas (exec .hostReset (readyState.setPitchBend K.two)) (fun t => t.engine.pitchBend != K.two) = true ∧
      nextHas (exec (.hostSetParam 16 K.zero) readyState) (fun t =>
        t.engine.numVoices != readyState.engine.numVoices && t.param 16 != readyState.param 16) = true := by decide +kernel
theorem test_witness_VelocitySensitivityIsReadByNoRule : ∀ y, Instr.panic ≠ .hostSetParam 18 y := by
  intro y h; cases h
/-- Two runs with another seed, another voice and another LFO. -/
theorem test_witness_RunsAfterResetGiveTheSameWords :
    SameSettings readyState { (withEnv K.one K.two K.half) with seed := 1#32, lfo := { Lfo.powerOn with step := 5 } } ∧
      readyState.engine.allocated = true ∧
      readyState.memory = ({ (withEnv K.one K.two K.half) with seed := 1#32 } : State).memory :=
  ⟨⟨rfl, rfl, rfl, rfl, rfl, rfl⟩, rfl, rfl⟩

end Sys2Proof.Tests
end

section
/-! SUPPORT AND OBLIGATIONS O1 to O5: the numbers of 00_scope.md section 5. First the facts about signs, zeros and
flushing that the statements share, then one lemma per operator or clause, then the statements. -/

namespace Sys2Proof.F32

open Sys2Proof.Safety

/-! ## Signed values -/

/-- The signed value over the rationals: the magnitude with its sign. -/
theorem signed_cast (s : Bool) (e : Fin 255) (f : BitVec 23) :
    (signed s e f : ℚ) = if s then -(units e f : ℚ) else (units e f : ℚ) := by
  cases s <;> simp [signed]

theorem signed_eq_zero_iff (s : Bool) (e : Fin 255) (f : BitVec 23) : signed s e f = 0 ↔ units e f = 0 := by
  cases s <;> simp [signed]

theorem signed_zero (s : Bool) : signed s 0 0 = 0 := (signed_eq_zero_iff s 0 0).mpr rfl

/-! ## The four operators (R10) -/

/-- `round_spec` for a rational written in another way. -/
theorem roundedFrom_round {q : ℚ} {neg : Bool} {a b : Nat} (hb : 0 < b)
    (hq : q = if neg then -((a : ℚ) / b) else (a : ℚ) / b) : RoundedFrom q neg (round neg a b) :=
  hq ▸ round_spec neg a b hb

/-- Zero is rounded to the zero of the wanted sign. -/
theorem roundedFrom_zero (neg : Bool) : RoundedFrom 0 neg (zero neg) := by
  have hbound : ¬ (2 : ℚ) ^ 277 - 2 ^ 252 ≤ |0| := by
    rw [abs_zero, not_le, sub_pos]
    exact pow_lt_pow_right₀ (by norm_num) (by norm_num)
  rw [RoundedFrom, if_neg hbound]
  refine ⟨0, 0, rfl, fun neg' e' f' => ⟨?_, fun _ _ => rfl⟩⟩
  rw [signed_zero, Int.cast_zero, sub_zero, abs_zero]
  exact abs_nonneg _

/-- An integer rounded with its own sign. -/
theorem roundedFrom_intCast (z : Int) : RoundedFrom z (decide (z < 0)) (round (decide (z < 0)) z.natAbs 1) := by
  refine roundedFrom_round Nat.one_pos ?_
  rw [Nat.cast_natAbs, Nat.cast_one, div_one, Int.cast_abs]
  by_cases hz : z < 0
  · rw [decide_eq_true hz, if_pos rfl, abs_of_neg (Int.cast_lt_zero.mpr hz), InvolutiveNeg.neg_neg]
  · rw [decide_eq_false hz, if_neg Bool.false_ne_true, abs_of_nonneg (Int.cast_nonneg (not_lt.mp hz))]

theorem addExact_rounded (s t : Bool) (e e' : Fin 255) (f f' : BitVec 23) :
    RoundedFrom (signed s e f + signed t e' f' : ℚ)
      (if signed s e f + signed t e' f' = 0 then s && t else decide (signed s e f + signed t e' f' < 0))
      (addExact (.num s e f) (.num t e' f')) := by
  rw [← Int.cast_add]
  simp only [addExact]
  by_cases hz : signed s e f + signed t e' f' = 0
  · rw [if_pos hz, if_pos hz, hz]
    exact roundedFrom_zero (s && t)
  · rw [if_neg hz, if_neg hz]
    exact roundedFrom_intCast _

theorem mulExact_rounded (s t : Bool) (e e' : Fin 255) (f f' : BitVec 23) :
    RoundedFrom ((signed s e f : ℚ) * signed t e' f' / 2 ^ 149) (s ^^ t) (mulExact (.num s e f) (.num t e' f')) := by
  refine roundedFrom_round (Nat.two_pow_pos 149) ?_
  rw [signed_cast, signed_cast, Nat.cast_mul, Nat.cast_pow, Nat.cast_ofNat]
  cases s <;> cases t <;> simp [neg_div]

theorem divExact_rounded (s t : Bool) (e e' : Fin 255) (f f' : BitVec 23) (h : units e' f' ≠ 0) :
    RoundedFrom ((signed s e f : ℚ) * 2 ^ 149 / signed t e' f') (s ^^ t) (divExact (.num s e f) (.num t e' f')) := by
  rw [divExact, if_neg h]
  refine roundedFrom_round (Nat.pos_of_ne_zero h) ?_
  rw [signed_cast, signed_cast, Nat.cast_mul, Nat.cast_pow, Nat.cast_ofNat]
  cases s <;> cases t <;> simp [neg_div, div_neg]

/-! ## Conversions (R10) -/

/-- A whole multiple `n` of `2^149` units that is a magnitude is what `round` gives for the integer `n`. -/
theorem round_whole {neg : Bool} {n : Nat} {e : Fin 255} {f : BitVec 23} (h : units e f = n * 2 ^ 149) :
    round neg (n * 2 ^ 149) 1 = .num neg e f :=
  round_exact neg _ 1 Nat.one_pos e f (by rw [h, Nat.mul_one])

/-- A magnitude with the sign of the integer it stands for is that integer. -/
theorem signed_of_units {i : Int} {e : Fin 255} {f : BitVec 23} (h : units e f = i.natAbs * 2 ^ 149) :
    signed (decide (i < 0)) e f = i * 2 ^ 149 := by
  have hu : (units e f : Int) = |i| * 2 ^ 149 := by rw [h, Int.abs_eq_natAbs]; push_cast; rfl
  by_cases hi : i < 0
  · rw [decide_eq_true hi, signed, if_pos rfl, hu, abs_of_neg hi, neg_mul, InvolutiveNeg.neg_neg]
  · rw [decide_eq_false hi, signed, if_neg Bool.false_ne_true, hu, abs_of_nonneg (not_lt.mp hi)]

theorem ofInt_exact {i : Int} (h : i.natAbs ≤ 2 ^ 24) :
    ∃ s e f, ofInt i = .num s e f ∧ signed s e f = i * 2 ^ 149 := by
  obtain ⟨e, f, hu⟩ := exists_units 149 i.natAbs h (by decide)
  exact ⟨decide (i < 0), e, f, round_whole hu, signed_of_units hu⟩

/-- The integer floor of a finite value is itself held by a finite value: either the value is whole, or it is
below `2^23`. -/
theorem exists_units_floor (s : Bool) (e : Fin 255) (f : BitVec 23) :
    ∃ e' f', units e' f' = (signed s e f / 2 ^ 149).natAbs * 2 ^ 149 := by
  rcases signed_multiple_or_small 149 s e f with ⟨m, hm⟩ | hsmall
  · have hu : units e f = (signed s e f).natAbs := by cases s <;> simp [signed]
    refine ⟨e, f, ?_⟩
    rw [hu, hm, Int.mul_ediv_cancel _ (by positivity), Int.natAbs_mul]
    rfl
  · refine exists_units 149 _ ?_ (by decide)
    have hbounds := abs_lt.mp hsmall
    omega

/-- A floor that is not zero is negative exactly when its operand is. -/
theorem floor_sign {s : Bool} {e : Fin 255} {f : BitVec 23} (h : signed s e f / 2 ^ 149 ≠ 0) :
    decide (signed s e f / 2 ^ 149 < 0) = s := by
  cases s with
  | false =>
    have : 0 ≤ signed false e f := by simp [signed]
    exact decide_eq_false (not_lt.mpr (Int.ediv_nonneg this (by positivity)))
  | true =>
    have : signed true e f ≤ 0 := by simp [signed]
    exact decide_eq_true (by omega)

/-- The model's floor is the integer quotient, with the operand's sign. -/
theorem floor_num (s : Bool) (e : Fin 255) (f : BitVec 23) :
    ∃ e' f', floor (.num s e f) = .num s e' f' ∧ signed s e' f' = signed s e f / 2 ^ 149 * 2 ^ 149 := by
  simp only [floor]
  by_cases hq : signed s e f / 2 ^ 149 = 0
  · rw [if_pos hq, hq]
    exact ⟨0, 0, rfl, by rw [signed_zero, Int.zero_mul]⟩
  · obtain ⟨e', f', hu⟩ := exists_units_floor s e f
    have hsigned := signed_of_units hu
    rw [if_neg hq]
    rw [floor_sign hq] at hsigned ⊢
    exact ⟨e', f', round_whole hu, hsigned⟩

/-! ## The phase threshold (R13, R14) -/

/-- The significand of `PHASE_EPS` is within half a step of 1e-9, so no other is nearer. -/
theorem phaseEps_nearest (m : Nat) :
    |((0x112E0BE826D695 : Nat) : Int) * 10 ^ 9 - 2 ^ 82| ≤ |(m : Int) * 10 ^ 9 - 2 ^ 82| := by
  rw [Int.abs_eq_natAbs, Int.abs_eq_natAbs]
  omega

/-- A finite value of at least `2^119` units is a multiple of `2^96`; `PHASE_EPS` lies above `2^119` and, its 53-bit
significand being odd, is no such multiple. -/
theorem signed_ne_phaseEps (s : Bool) (e : Fin 255) (f : BitVec 23) : signed s e f ≠ (phaseEpsUnits : Int) := by
  intro h
  rcases signed_multiple_or_small 96 s e f with ⟨m, hm⟩ | hsmall
  · rw [hm, phaseEpsUnits] at h
    omega
  · have := (abs_lt.mp hsmall).2
    rw [h, phaseEpsUnits] at this
    omega

theorem gtPhaseEps_num {s : Bool} {e : Fin 255} {f : BitVec 23} (h : isSubnormal (.num s e f) = false) :
    gtPhaseEps (.num s e f) = true ↔ (phaseEpsUnits : Int) < signed s e f := by
  simp only [gtPhaseEps, flush_of_normal h, decide_eq_true_eq]

/-! ## Flushing and comparisons (R11, R18) -/

/-- Flushing a finite value keeps it finite and keeps its sign. -/
theorem exists_flush_num (s : Bool) (e : Fin 255) (f : BitVec 23) : ∃ e' f', flush (.num s e f) = .num s e' f' := by
  rcases flush_cases (.num s e f) with h | ⟨-, s', e', f', heq, -, h⟩
  · exact ⟨e, f, h⟩
  · cases heq
    exact ⟨0, 0, h⟩

/-- A subnormal under FTZ becomes the zero of its sign. -/
theorem flush_of_subnormal {s : Bool} {e : Fin 255} {f : BitVec 23} (hftz : Config.ftz = true)
    (h : isSubnormal (.num s e f) = true) : flush (.num s e f) = zero s := by
  unfold flush
  rw [h, hftz]

/-- Nothing else is flushed. -/
theorem flush_of_not {x : F32} (h : ¬ (Config.ftz = true ∧ isSubnormal x = true)) : flush x = x := by
  rcases flush_cases x with hx | ⟨hftz, -, -, -, -, hsub, -⟩
  · exact hx
  · exact absurd ⟨hftz, hsub⟩ h

theorem eq_nan_of_isNaN {x : F32} (h : isNaN x = true) : x = .nan := by
  cases x with
  | nan => rfl
  | inf s => cases h
  | num s e f => cases h

theorem comparisons_nan {x y : F32} (h : isNaN x = true ∨ isNaN y = true) :
    lt x y = false ∧ le x y = false ∧ gt x y = false ∧ ge x y = false ∧ eq x y = false := by
  rcases h with h | h <;> rw [eq_nan_of_isNaN h] <;> simp [gt, ge, eq]

theorem comparisons_inf_inf (s t : Bool) :
    lt (.inf s) (.inf t) = (s && !t) ∧ le (.inf s) (.inf t) = (s || !t) ∧ eq (.inf s) (.inf t) = (s == t) :=
  ⟨rfl, rfl, by cases s <;> cases t <;> rfl⟩

/-- Every finite value lies between the infinities. -/
theorem comparisons_inf_num (s t : Bool) (e : Fin 255) (f : BitVec 23) :
    lt (.inf s) (.num t e f) = s ∧ le (.inf s) (.num t e f) = s ∧ eq (.inf s) (.num t e f) = false ∧
      lt (.num t e f) (.inf s) = !s ∧ le (.num t e f) (.inf s) = !s ∧ eq (.num t e f) (.inf s) = false := by
  obtain ⟨e', f', h⟩ := exists_flush_num t e f
  simp [lt, le, eq, h, ltExact, leExact]

/-- Finite operands that flushing keeps compare as their exact values. -/
theorem comparisons_num {s t : Bool} {e e' : Fin 255} {f f' : BitVec 23} (h : flush (.num s e f) = .num s e f)
    (h' : flush (.num t e' f') = .num t e' f') :
    (lt (.num s e f) (.num t e' f') = true ↔ signed s e f < signed t e' f') ∧
      (le (.num s e f) (.num t e' f') = true ↔ signed s e f ≤ signed t e' f') ∧
      (gt (.num s e f) (.num t e' f') = true ↔ signed s e f > signed t e' f') ∧
      (ge (.num s e f) (.num t e' f') = true ↔ signed s e f ≥ signed t e' f') ∧
      (eq (.num s e f) (.num t e' f') = true ↔ signed s e f = signed t e' f') := by
  simp [lt, le, gt, ge, eq, h, h', ltExact, leExact, Int.le_antisymm_iff]

theorem comparisons_flush (x y : F32) :
    lt x y = lt (flush x) (flush y) ∧ le x y = le (flush x) (flush y) ∧ eq x y = eq (flush x) (flush y) := by
  simp [lt, le, eq]

/-! ## Special operands (R10) -/

theorem exact_nan (x : F32) :
    addExact .nan x = .nan ∧ addExact x .nan = .nan ∧ mulExact .nan x = .nan ∧ mulExact x .nan = .nan ∧
      divExact .nan x = .nan ∧ divExact x .nan = .nan := by
  cases x <;> exact ⟨rfl, rfl, rfl, rfl, rfl, rfl⟩

/-- An infinity times a finite value, on either side: NaN for a zero, else the infinity of the product sign. -/
theorem mulExact_inf_num (s t : Bool) (e : Fin 255) (f : BitVec 23) :
    mulExact (.inf s) (.num t e f) = (if signed t e f = 0 then .nan else .inf (s ^^ t)) ∧
      mulExact (.num t e f) (.inf s) = (if signed t e f = 0 then .nan else .inf (s ^^ t)) := by
  simp only [mulExact, signed_eq_zero_iff, Bool.xor_comm t s, and_self]

theorem divExact_num_inf (s t : Bool) (e : Fin 255) (f : BitVec 23) :
    divExact (.num t e f) (.inf s) = .num (s ^^ t) 0 0 := by
  rw [Bool.xor_comm]
  rfl

theorem divExact_num_zero (s t : Bool) (e : Fin 255) (f : BitVec 23) :
    divExact (.num t e f) (.num s 0 0) = (if signed t e f = 0 then .nan else .inf (s ^^ t)) := by
  have h0 : units 0 0 = 0 := rfl
  simp only [divExact, h0, if_true, signed_eq_zero_iff, Bool.xor_comm t s]

end Sys2Proof.F32

/-! ## The constants (R13) -/

namespace Sys2Proof.K

/-- The ten constants that R13 gives a bit pattern. -/
theorem constants_toBits :
    [pi, piOver4, twoPi, silence, leak, analog, fastRelease, bendCoef, ln2Over12, fNote0].map F32.toBits =
      [some 0x40490FDB#32, some 0x3F490FDB#32, some 0x40C90FDB#32, some 0x38D1B717#32, some 0x3F7F3B64#32,
        some 0x3B03126F#32, some 0x3F400000#32, some 0x376C97A1#32, some 0x3D6C9820#32, some 0x4102D013#32] := by
  decide +kernel

end Sys2Proof.K

/-! ## The obligations -/

namespace Sys2Proof

/-- Settles O1: `round` rounds the exact integer quotient, and each operator hands it the exact result with its sign. -/
theorem arithmeticRoundsToNearestEven : Obligations.ArithmeticRoundsToNearestEven :=
  fun s t e e' f f' =>
    ⟨F32.addExact_rounded s t e e' f f', F32.mulExact_rounded s t e e' f f', F32.divExact_rounded s t e e' f f'⟩

/-- Settles O2, clause by clause. -/
theorem operatorsFlushAndCompareOrdered : Obligations.OperatorsFlushAndCompareOrdered := by
  refine ⟨fun x y => ⟨rfl, rfl, rfl, rfl⟩, fun x => ?flush, F32.exact_nan, fun s t e f => ?special,
    fun x y h => F32.comparisons_nan h, rfl, fun s t e f => ?infinite, fun x y => ⟨rfl, rfl⟩, F32.comparisons_flush,
    fun x => ⟨rfl, rfl, rfl, rfl⟩, fun x y => rfl, fun s t e e' f f' h h' => F32.comparisons_num h h',
    fun x lo hi => rfl, fun x y => rfl⟩
  case flush =>
    split
    next h =>
      obtain ⟨hftz, hsub⟩ := h
      cases x with
      | nan => rfl
      | inf s => rfl
      | num s e f => exact F32.flush_of_subnormal hftz hsub
    next h => exact F32.flush_of_not h
  case special =>
    obtain ⟨hmul, hmul'⟩ := F32.mulExact_inf_num s t e f
    exact ⟨rfl, rfl, rfl, rfl, hmul, hmul', rfl, rfl, F32.divExact_num_inf s t e f, F32.divExact_num_zero s t e f,
      rfl, rfl, rfl⟩
  case infinite =>
    obtain ⟨hlt, hle, heq⟩ := F32.comparisons_inf_inf s t
    exact ⟨hlt, hle, heq, F32.comparisons_inf_num s t e f⟩

/-- Settles O3: whole numbers up to `2^24` are finite values, and so is the floor of every finite value. -/
theorem conversionsAreExact : Obligations.ConversionsAreExact := by
  refine ⟨fun i h => F32.ofInt_exact h, fun s e f => ?_⟩
  obtain ⟨e', f', hfloor, hsigned⟩ := F32.floor_num s e f
  have hdiv : ⌊(F32.signed s e f : ℚ) / 2 ^ 149⌋ = F32.signed s e f / 2 ^ 149 := by
    exact_mod_cast Rat.floor_intCast_div_natCast (F32.signed s e f) (2 ^ 149)
  refine ⟨e', f', hfloor, ?_⟩
  rw [hsigned, hdiv]
  push_cast
  rfl

/-- Settles O4: the threshold has an odd 53-bit significand, which no binary32 value has; so the strict and the
non-strict test agree. -/
theorem phaseThresholdIsNoBinary32Value : Obligations.PhaseThresholdIsNoBinary32Value := by
  refine ⟨⟨by norm_num, by norm_num, 0x112E0BE826D695, rfl, by norm_num, by norm_num, F32.phaseEps_nearest⟩,
    fun s e f => ⟨F32.signed_ne_phaseEps s e f, fun h => ⟨F32.gtPhaseEps_num h, ?_⟩⟩, rfl, rfl, rfl⟩
  rw [F32.gtPhaseEps_num h, lt_iff_le_and_ne, and_iff_left (F32.signed_ne_phaseEps s e f).symm]

/-- Settles O5: the bit patterns are read off, and each decimal is rounded by evaluation; `PAN_CENTER` is `F.sin` of
`PI_OVER_4` by definition. -/
theorem constantsAreNearestTheirDecimals : Obligations.ConstantsAreNearestTheirDecimals := by
  refine ⟨K.constants_toBits, ?_, ?_, ?_, ?_, ?_, ?_, ?_, ?_, ?_, ?_, rfl, ?_⟩ <;> decide +kernel

end Sys2Proof
end

section
/-! SUPPORT AND OBLIGATIONS O56 AND O58: the registers of 10_state.md. `Effect` says once, for every instruction, what a
next state can be, seen from outside the voices; both statements are read off it. -/

namespace Sys2Proof.Safety

open Sys2Proof.Machine

/-! ## Frames as equal fields -/

theorem SameShared.memory {s t : State} (h : SameShared s t) : t.memory = s.memory := by
  have hl : t.memory.left = s.memory.left := List.ext_getElem? (h.words .left)
  have hr : t.memory.right = s.memory.right := List.ext_getElem? (h.words .right)
  exact (Memory.mk.injEq ..).mpr ⟨hl, hr⟩

theorem VoicesFrame.refl (s : State) : VoicesFrame s s := ⟨SameShared.refl s, rfl⟩

theorem VoicesFrame.setRet {s t : State} (h : VoicesFrame s t) (r : RetVal) : VoicesFrame s (t.setRet r) :=
  ⟨h.shared.setRet r, h.periodLow⟩

theorem voicesFrame_setVoice (s : State) (v : VoiceIdx) (x : Voice) : VoicesFrame s (s.setVoice v x) :=
  ⟨SameShared.setVoice s v x, rfl⟩

end Sys2Proof.Safety

namespace Sys2Proof.Machine

open Sys2Proof.Safety

/-! ## What the longer operations keep -/

@[simp] theorem lfoTick_periodLow (s : State) : s.lfoTick.periodLow = s.periodLow := by
  unfold State.lfoTick
  split <;> rfl

@[simp] theorem render_engine (s : State) (n : Nat) : (s.render n).engine = s.engine := (renderKept_loop s n).engine

@[simp] theorem render_derived (s : State) (n : Nat) : (s.render n).derived = s.derived := (renderKept_loop s n).derived

@[simp] theorem render_params (s : State) (n : Nat) : (s.render n).params = s.params := (renderKept_loop s n).params

@[simp] theorem render_refused (s : State) (n : Nat) : (s.render n).refused = s.refused := (renderKept_loop s n).refused

@[simp] theorem render_firstRefused (s : State) (n : Nat) : (s.render n).firstRefused = s.firstRefused :=
  (renderKept_loop s n).firstRefused

theorem render_periodLow_of_set {s : State} (n : Nat) (h : s.periodLow = true) : (s.render n).periodLow = true :=
  (renderKept_loop s n).periodLow h

/-- An id that names a parameter register is that register's number. -/
theorem eq_of_paramIndex {id : Int} {j : Fin 20} (h : paramIndex id = some j) : id = j.val := by
  unfold paramIndex at h
  split at h
  case isTrue hr =>
    cases h
    exact (Int.toNat_of_nonneg hr.1).symm
  case isFalse => cases h

/-! ## The writers of the engine registers that MIDI reaches (10_state.md R60) -/

/-- The pitch-bend operation and the messages that run it. -/
def WritesPitchBend (i : Instr) : Prop :=
  (∃ b, i = .setPitchBend b) ∨ (∃ c d1 d2, i = .midiPitchBend c d1 d2) ∨ ∃ m, i = .hostMidi m

/-- The pedal operations and the messages that run them. -/
def WritesPedal (i : Instr) : Prop :=
  i = .panic ∨ (∃ x, i = .sustainPedalChange x) ∨ (∃ k x, i = .controlChange k x) ∨
    (∃ c d2, i = .midiCcSustain c d2) ∨ (∃ c k d2, i = .midiCcPanic c k d2) ∨ ∃ m, i = .hostMidi m

/-- The operations that take an oscillator's sample on their own. -/
def TakesSample (i : Instr) : Prop :=
  (∃ v o, i = .nextSample v o) ∨ (∃ v o, i = .oscRender v o) ∨ ∃ v x, i = .voiceRender v x

/-! ## What an instruction can do -/

/-- `Effect s i t`: what `i` can answer in `s`, said by what it may change outside the voices and the returned value. -/
inductive Effect (s : State) : Instr → State → Prop where
  | refuse (i : Instr) (c : Command) : Effect s i (s.refuse c)
  | voices {i : Instr} {t : State} (h : VoicesFrame s t) : Effect s i t
  | sample {i : Instr} {t : State} (hi : TakesSample i) (h : SameShared s t) (low : Bool)
      (hp : t.periodLow = (s.periodLow || low)) : Effect s i t
  | pedal {i : Instr} {t : State} (hi : i.wellFormed = true → WritesPedal i) (b : Bool)
      (h : VoicesFrame (s.setSustainPedal b) t) : Effect s i t
  | pitchBend {i : Instr} (hi : WritesPitchBend i) (x : F32) : Effect s i (s.setPitchBend x)
  | lfoTick : Effect s .lfoTick s.lfoTick
  | noiseNext (w : Word32) (r : RetVal) : Effect s .noiseNext ((s.setSeed w).setRet r)
  | safetyClamp (ch : Channel) (m : Memory) : Effect s (.safetyClamp ch) (s.setMemory m)
  | derive : Effect s .derive s.derive
  | alloc (sr : F32) (bs : Int) : Effect s (.hostAlloc sr bs) (s.hostAlloc sr bs)
  | dealloc : Effect s .hostDealloc (s.setEngine { s.engine with allocated := false, ready := false })
  | reset : Effect s .hostReset s.hostReset
  | render (n : Nat) : Effect s (.hostRender n) (s.render n)
  | setParam {id : Int} {x : F32} {j : Fin 20} {t : State} (hj : id = j.val)
      (ht : t = s.setParam j x ∨ t = (s.setParam j x).derive) : Effect s (.hostSetParam id x) t

variable {s t : State} {i : Instr}

/-! ### Notes and controllers -/

theorem startVoice_effect {v : VoiceIdx} {note velocity : Nat} (h : s.startVoice v note velocity = .next t) :
    Effect s i t := by
  rcases startVoice_cases s v note velocity with ⟨p, -, hp⟩ | ⟨-, hp⟩
  · cases hp.symm.trans h
    exact .voices (voicesFrame_setVoice _ _ _)
  · cases hp.symm.trans h

theorem noteOff_effect (s : State) (i : Instr) (note : Int) : Effect s i (s.noteOff note) :=
  .voices (voicesFrame_mapVoices _ _)

/-- A pedal change writes the pedal, and of the rest only voices. -/
theorem voicesFrame_sustainPedalChange (s : State) (value : Nat) :
    VoicesFrame (s.setSustainPedal (decide (K.pedalThreshold ≤ value))) (s.sustainPedalChange value) := by
  unfold State.sustainPedalChange
  simp only
  split
  · exact VoicesFrame.refl _
  · exact voicesFrame_mapVoices _ _

theorem voicesFrame_panic (s : State) : VoicesFrame (s.setSustainPedal false) s.panic :=
  voicesFrame_mapVoices (s.setSustainPedal false) _

theorem controlChange_effect (s : State) (hi : i.wellFormed = true → WritesPedal i) (controller value : Nat) :
    Effect s i (s.controlChange controller value) := by
  unfold State.controlChange
  split
  · exact .pedal hi _ (voicesFrame_sustainPedalChange s value)
  · split
    · exact .pedal hi _ (voicesFrame_panic s)
    · exact .voices (VoicesFrame.refl s)

/-- The controllers of CC_OTHER (30_encoding.md R133) change nothing: neither 0x40 nor any from 0x78 up. -/
theorem controlChange_other {d1 : Data7} (h : isOtherController d1 = true) (s : State) (value : Nat) :
    s.controlChange (controllerOf d1) value = s := by
  simp only [isOtherController, Bool.and_eq_true, bne_iff_ne, ne_eq, decide_eq_true_eq, BitVec.lt_def] at h
  obtain ⟨hne, hlt⟩ := h
  have hsustain : controllerOf d1 ≠ K.sustainCc := fun e => hne (BitVec.eq_of_toNat_eq e)
  have hpanic : ¬ K.panicCcMin ≤ controllerOf d1 := not_le.mpr hlt
  rw [State.controlChange, if_neg hsustain, if_neg hpanic]

/-! ### Messages -/

/-- A message is refused, or what its row runs decides. -/
theorem midiCommand_effect {bytes : List Byte} {run : State → Host.Outcome State Fault Refusal}
    (h : midiCommand bytes run s = .next t) (hrun : run s = .next t → Effect s i t) : Effect s i t := by
  cases hr : s.engine.ready with
  | true => exact hrun ((midiCommand_ready hr bytes run).symm.trans h)
  | false =>
    cases (midiCommand_notReady hr bytes run).symm.trans h
    exact .refuse i _

theorem noEffect_effect (h : noEffect s = .next t) : Effect s i t := by
  cases h
  exact .voices (VoicesFrame.refl s)

/-- A word's row is one of the rows that have an encoding. -/
theorem encode_decodeWord_isSome (w : CmdWord) : (encode (decodeWord w)).isSome = true := by
  unfold decodeWord
  cases rowOf w <;> rfl

/-- What a row can do, the MIDI call can do: of the effects, the rows have only these four. -/
theorem Effect.hostMidi_of_row {m : List Byte} (h : Effect s i t) (hrow : (encode i).isSome = true) :
    Effect s (.hostMidi m) t := by
  cases h with
  | refuse _ c => exact .refuse _ c
  | voices h => exact .voices h
  | pedal _ b h => exact .pedal (fun _ => by simp [WritesPedal]) b h
  | pitchBend _ x => exact .pitchBend (by simp [WritesPitchBend]) x
  | sample hi => rcases hi with ⟨v, o, rfl⟩ | ⟨v, o, rfl⟩ | ⟨v, x, rfl⟩ <;> simp [encode] at hrow
  | _ => simp [encode] at hrow

/-- What a MIDI row (45_engine_midi.md R330 to R335) can do: the rows are the instructions that have an encoding. -/
theorem row_effect (h : exec i s = .next t) (hrow : (encode i).isSome = true) : Effect s i t := by
  cases i
  case midiIgnData | midiIgnPolyPressure | midiIgnProgram | midiIgnChannelPressure | midiIgnSystem =>
    exact midiCommand_effect h noEffect_effect
  case midiNoteOff | midiNoteOnV0 =>
    refine midiCommand_effect (run := fun u => .next (u.noteOff _)) h fun h => ?_
    cases h
    exact noteOff_effect s _ _
  case midiNoteOn => exact midiCommand_effect (run := fun u => u.noteOn _ _) h startVoice_effect
  case midiCcSustain | midiCcPanic =>
    refine midiCommand_effect (run := fun u => .next (u.controlChange _ _)) h fun h => ?_
    cases h
    exact controlChange_effect s (fun _ => by simp [WritesPedal]) _ _
  case midiCcOther c d1 d2 =>
    refine midiCommand_effect (run := fun u => .next (u.controlChange (controllerOf d1) _)) h fun h => ?_
    cases h
    by_cases hd : isOtherController d1 = true
    · rw [controlChange_other hd]
      exact .voices (VoicesFrame.refl s)
    · exact controlChange_effect (i := .midiCcOther c d1 d2) s (fun hw => absurd hw hd) _ _
  case midiPitchBend =>
    refine midiCommand_effect (run := fun u => .next (u.setPitchBend _)) h fun h => ?_
    cases h
    exact .pitchBend (by simp [WritesPitchBend]) _
  all_goals simp [encode] at hrow

theorem hostMidi_effect {m : List Byte} (h : exec (.hostMidi m) s = .next t) : Effect s (.hostMidi m) t := by
  rcases execHostMidi_cases m s with ⟨-, e⟩ | ⟨-, -, e⟩ | ⟨-, w, -, e⟩
  · cases e.symm.trans h
    exact .refuse _ _
  · cases e.symm.trans h
    exact .voices (VoicesFrame.refl s)
  · have hrow := encode_decodeWord_isSome w
    exact (row_effect (e.symm.trans h) hrow).hostMidi_of_row hrow

/-! ### Host calls -/

theorem hostAlloc_effect {sr : F32} {bs : Int} (h : execHostAlloc sr bs s = .next t) : Effect s (.hostAlloc sr bs) t := by
  unfold execHostAlloc at h
  split at h <;> cases h
  · exact .refuse _ _
  · exact .alloc sr bs

theorem hostReset_effect (h : execHostReset s = .next t) : Effect s .hostReset t := by
  unfold execHostReset at h
  split at h <;> cases h
  · exact .reset
  · exact .refuse _ _

theorem hostRender_effect {n : Nat} (h : execHostRender n s = .next t) : Effect s (.hostRender n) t := by
  unfold execHostRender at h
  split at h <;> cases h
  · exact .render n
  · exact .refuse _ _

theorem hostSetParam_effect {id : Int} {x : F32} (h : execHostSetParam id x s = .next t) :
    Effect s (.hostSetParam id x) t := by
  rcases execHostSetParam_cases id x s with ⟨e, -⟩ | ⟨j, hj, -, -, e⟩
  · cases e.symm.trans h
    exact .refuse _ _
  · refine .setParam (eq_of_paramIndex hj) ?_
    cases e.symm.trans h
    split
    · exact .inr rfl
    · exact .inl rfl

/-! ### Every instruction -/

theorem calcPeriod_effect {v : VoiceIdx} {note : Nat} (h : execCalcPeriod v note s = .next t) : Effect s i t := by
  unfold execCalcPeriod at h
  split at h <;> cases h
  exact .voices ((VoicesFrame.refl s).setRet _)

/-- What every instruction can do. -/
theorem exec_effect (h : exec i s = .next t) : Effect s i t := by
  cases i
  case hostAlloc => exact hostAlloc_effect h
  case hostDealloc => cases h; exact .dealloc
  case hostReset => exact hostReset_effect h
  case hostRender => exact hostRender_effect h
  case hostSetParam => exact hostSetParam_effect h
  case hostMidi => exact hostMidi_effect h
  case oscReset | squareWave | updateCoefficients | filterReset | attack | release | envReset | voiceUpdate |
      voiceNoteOff | voiceReset | refreshPeriods =>
    cases h; exact .voices (voicesFrame_setVoice _ _ _)
  case filterRender | nextValue => cases h; exact .voices ((voicesFrame_setVoice _ _ _).setRet _)
  case isActive | isInAttack | findFreeVoice => cases h; exact .voices ((VoicesFrame.refl s).setRet _)
  case reclaim => cases h; exact .voices (voicesFrame_mapVoices _ _)
  case nextSample | oscRender =>
    cases h
    exact .sample (by simp [TakesSample]) (oscFrame_putOscStep _ _ _ _).shared _ rfl
  case voiceRender =>
    cases h
    exact .sample (by simp [TakesSample]) (((SameShared.setVoice _ _ _).raisePeriodLow _).setRet _) _ rfl
  case lfoTick => cases h; exact .lfoTick
  case noiseNext => cases h; exact .noiseNext _ _
  case calcPeriod => exact calcPeriod_effect h
  case startVoice | noteOn => exact startVoice_effect h
  case noteOff => cases h; exact noteOff_effect s _ _
  case controlChange => cases h; exact controlChange_effect s (fun _ => by simp [WritesPedal]) _ _
  case sustainPedalChange =>
    cases h
    exact .pedal (fun _ => by simp [WritesPedal]) _ (voicesFrame_sustainPedalChange s _)
  case panic => cases h; exact .pedal (fun _ => by simp [WritesPedal]) _ (voicesFrame_panic s)
  case setPitchBend => cases h; exact .pitchBend (by simp [WritesPitchBend]) _
  case safetyClamp ch => cases h; exact .safetyClamp ch _
  case derive => cases h; exact .derive
  all_goals exact row_effect h rfl

/-! ## The records (10_state.md R80) -/

theorem Effect.periodLow_sticky (h : Effect s i t) (hp : s.periodLow = true) : t.periodLow = true := by
  cases h with
  | voices h => exact h.periodLow.trans hp
  | sample _ _ low hlow => rw [hlow, hp, Bool.true_or]
  | pedal _ b h => exact h.periodLow.trans hp
  | lfoTick => exact (lfoTick_periodLow s).trans hp
  | render n => exact render_periodLow_of_set n hp
  | setParam _ ht => rcases ht with rfl | rfl <;> exact hp
  | _ => exact hp

theorem Effect.refused_sticky (h : Effect s i t) (hr : s.refused = true) :
    t.refused = true ∧ t.firstRefused = s.firstRefused := by
  have keep : t.refused = s.refused → t.firstRefused = s.firstRefused →
      t.refused = true ∧ t.firstRefused = s.firstRefused := fun h1 h2 => ⟨h1.trans hr, h2⟩
  cases h with
  | refuse _ c => exact ⟨rfl, if_pos hr⟩
  | voices h => exact keep h.shared.refused h.shared.firstRefused
  | sample _ h => exact keep h.refused h.firstRefused
  | pedal _ b h => exact keep h.shared.refused h.shared.firstRefused
  | lfoTick => exact keep (renderKept_lfoTick s).refused (renderKept_lfoTick s).firstRefused
  | render n => exact keep (render_refused s n) (render_firstRefused s n)
  | setParam _ ht => rcases ht with rfl | rfl <;> exact keep rfl rfl
  | _ => exact keep rfl rfl

end Sys2Proof.Machine

/-! ## The obligations -/

namespace Sys2Proof

open Sys2Proof.Machine

/-- Settles O56: no effect clears a record, and a refusal records its command only where none is recorded. -/
theorem recordsAreSticky : Obligations.RecordsAreSticky :=
  fun _ _ _ h => ⟨(exec_effect h).periodLow_sticky, (exec_effect h).refused_sticky⟩

/-- Settles O58: each effect keeps the registers whose rules do not name its instructions. -/
theorem registersAreWrittenOnlyByTheirRules : Obligations.RegistersAreWrittenOnlyByTheirRules := by
  intro i s t h
  cases exec_effect h with
  | refuse _ c => simp
  | voices h =>
    obtain ⟨hs, hp⟩ := h
    simp [hs.lfo, hs.seed, hs.engine, hs.derived, hs.params, hs.memory, hp]
  | sample hi hs =>
    rcases hi with ⟨v, o, rfl⟩ | ⟨v, o, rfl⟩ | ⟨v, x, rfl⟩ <;>
    simp [hs.lfo, hs.seed, hs.engine, hs.derived, hs.params, hs.memory]
  | pedal hi b h =>
    obtain ⟨hs, hp⟩ := h
    have hpedal : b ≠ s.engine.sustainPedal → i.wellFormed = true → i = .hostReset ∨ WritesPedal i :=
      fun _ hw => .inr (hi hw)
    simpa [hs.lfo, hs.seed, hs.engine, hs.derived, hs.params, hs.memory, hp, WritesPedal] using hpedal
  | pitchBend hi x =>
    have hbend : x ≠ s.engine.pitchBend → i = .hostReset ∨ WritesPitchBend i := fun _ => .inr hi
    simpa [WritesPitchBend] using hbend
  | lfoTick =>
    have hk := renderKept_lfoTick s
    simp [hk.engine, hk.derived, hk.params]
  | noiseNext w r => simp
  | safetyClamp ch m => simp
  | derive => simp [State.derive]
  | alloc sr bs => simp [State.hostAlloc, State.derive]
  | dealloc => simp
  | reset => simp [State.hostReset]
  | render n => simp
  | @setParam id x j t hj ht =>
    have hkeep : ∀ k : Fin 20, id ≠ k.val → (s.setParam j x).param k = s.param k :=
      fun k hk => State.param_setParam_ne s j k x fun e => hk (e ▸ hj)
    rcases ht with rfl | rfl <;> simp +contextual [State.derive, hkeep]

end Sys2Proof
end

section
/-! SUPPORT AND OBLIGATIONS O11, O12 AND O50: steps and render calls (20_memory.md R110, R111). A decoded message is
well formed, row by row; the render statement is read off what the sample loop keeps and counts. -/

namespace Sys2Proof

/-! ## Decoded instructions are well formed (30_encoding.md R133) -/

/-- The note-on row stands behind the row of velocity 0. -/
theorem d2_ne_zero_of_rowOf_noteOn {w : CmdWord} (h : rowOf w = .noteOn) : w.d2 ≠ 0#7 := by
  simp only [rowOf, ite_eq_iff, reduceCtorEq, and_false, false_or, or_false, and_true] at h
  obtain ⟨-, -, hv0, h9⟩ := h
  exact fun hd => hv0 ⟨h9, hd⟩

/-- The last controller row stands behind those of the sustain pedal and of panic. -/
theorem isOtherController_of_rowOf_ccOther {w : CmdWord} (h : rowOf w = .ccOther) : isOtherController w.d1 = true := by
  simp only [rowOf, ite_eq_iff, reduceCtorEq, and_false, false_or, or_false, and_true] at h
  obtain ⟨-, -, -, -, -, hsustain, hpanic, hB⟩ := h
  have hne : w.d1 ≠ 0x40#7 := fun e => hsustain ⟨hB, e⟩
  have hlt : w.d1 < 0x78#7 := BitVec.not_le.mp fun e => hpanic ⟨hB, e⟩
  simp [isOtherController, hne, hlt]

theorem decodeWord_wellFormed (w : CmdWord) : (decodeWord w).wellFormed = true := by
  unfold decodeWord
  cases h : rowOf w
  case noteOn => simpa [Instr.wellFormed] using d2_ne_zero_of_rowOf_noteOn h
  case ccOther => exact isOtherController_of_rowOf_ccOther h
  all_goals rfl

theorem wellFormed_of_decode {bytes : List Byte} {i : Instr} (h : decode bytes = .ok i) : i.wellFormed = true := by
  rcases decode_cases bytes with ⟨r, -, e⟩ | ⟨w, -, e⟩
  · cases e.symm.trans h
  · cases e.symm.trans h
    exact decodeWord_wellFormed w

end Sys2Proof

namespace Sys2Proof.Machine

/-! ## Host calls of a ready block -/

/-- A message that decodes runs as the instruction it decodes to. -/
theorem execHostMidi_of_decode {s : State} {bytes : List Byte} {i : Instr} (hr : s.engine.ready = true)
    (h : decode bytes = .ok i) : execHostMidi bytes s = exec i s := by
  rcases execHostMidi_cases bytes s with ⟨hn, -⟩ | ⟨-, ⟨r, hw⟩, -⟩ | ⟨-, w, hw, e⟩
  · simp [hr] at hn
  · simp [decode, hw] at h
  · have hi : decodeWord w = i := by simpa [decode, hw] using h
    rw [e, hi]

theorem execHostRender_ready {s : State} (h : s.engine.ready = true) (n : Nat) :
    execHostRender n s = .next (s.render n) := if_pos h

/-! ## What a render call keeps and counts (20_memory.md R111) -/

@[simp] theorem render_port (s : State) (n : Nat) : (s.render n).port = s.port := (renderKept_loop s n).port

@[simp] theorem render_ret (s : State) (n : Nat) : (s.render n).ret = s.ret := (renderKept_loop s n).ret

theorem render_seed (s : State) (n : Nat) : (s.render n).seed = lcgNext^[n] s.seed :=
  renderSamples_seed (s.setMemory Memory.empty).refreshActive n

theorem render_step (s : State) (n : Nat) :
    (s.render n).lfo.step = (fun k : Int => if k - 1 ≤ 0 then 32 else k - 1)^[n] s.lfo.step :=
  renderSamples_step (s.setMemory Memory.empty).refreshActive n

/-- `reclaim` takes a voice as it is, or writes its envelope and filter alone (46_host_render.md R376). -/
theorem reclaimVoice_cases (x : Voice) :
    reclaimVoice x = x ∨ reclaimVoice x = (x.setEnv x.env.envReset).setFilter x.filter.filterReset := by
  unfold reclaimVoice
  split
  · exact .inl rfl
  · exact .inr rfl

end Sys2Proof.Machine

/-! ## The obligations -/

namespace Sys2Proof

open Sys2Proof.Machine

/-- Settles O11: the two cases of the port. -/
theorem stepExecutesTheNextCommand : Obligations.StepExecutesTheNextCommand :=
  ⟨fun _ _ _ => step_cons, fun _ => step_nil⟩

/-- Settles O12: the step runs the MIDI call, which in a ready block runs the decoded instruction. -/
theorem stepRunsTheDecodedMessage : Obligations.StepRunsTheDecodedMessage := by
  intro s bytes rest i hport hready hdecode
  have hrun : execHostMidi bytes (s.setPort rest) = exec i (s.setPort rest) := execHostMidi_of_decode hready hdecode
  exact ⟨wellFormed_of_decode hdecode, (step_cons hport).trans hrun⟩

/-- Settles O50: the loop keeps what the statement names and counts once per sample; the reclaim after it writes of a
voice only what the statement leaves out. -/
theorem renderKeepsTheSnapshotAndCounts : Obligations.RenderKeepsTheSnapshotAndCounts := by
  intro s n hready
  refine ⟨s.render n, execHostRender_ready hready n, render_params s n, render_engine s n, render_derived s n,
    render_refused s n, render_firstRefused s n, render_port s n, render_ret s n, render_periodLow_of_set n,
    render_seed s n, render_step s n, fun v => ?_⟩
  have hk := (renderKept_loop s n).voice v
  rw [render_voice]
  rcases reclaimVoice_cases (((s.setMemory Memory.empty).refreshActive.renderSamples n).voice v) with e | e
  all_goals
    rw [e]
    exact ⟨hk.note, hk.velocity, hk.period, hk.panLeft, hk.panRight, hk.attackMultiplier, hk.decayMultiplier,
      hk.sustainLevel, hk.releaseMultiplier, hk.amplitude1, hk.amplitude2, hk.polarity1, hk.polarity2⟩

end Sys2Proof
end

section
/-! SUPPORT AND OBLIGATIONS O6 TO O10 AND O40: the encoding of 30_encoding.md. The laws speak of the four fields of a command
word: `MidiRow.Selects` is R133's condition on them (`rowOf_of_selects`), `MidiRow.instr` the instruction that a row makes of
them (`decodeWord_eq_instr`). -/

namespace Sys2Proof

/-! ## Bytes and words as their fields (30_encoding.md R130, R132) -/

theorem byte_eq_nibbles (b : Byte) : ∃ h c : Nibble, b = h ++ c :=
  ⟨_, _, (BitVec.extractLsb'_append_extractLsb' (w := 4) (len := 4) (x := b)).symm⟩

theorem byte_eq_dataByte (b : Byte) : ∃ (x : BitVec 1) (d : Data7), b = x ++ d :=
  ⟨_, _, (BitVec.extractLsb'_append_extractLsb' (w := 1) (len := 7) (x := b)).symm⟩

theorem data7_and_mask (d : Data7) : d &&& 0x7F#7 = d := BitVec.and_allOnes

theorem statusByte_and (h h' c c' : Nibble) : (h ++ c : Byte) &&& (h' ++ c' : Byte) = (h &&& h') ++ (c &&& c') :=
  BitVec.and_append

theorem dataByte_and (x x' : BitVec 1) (d d' : Data7) :
    (x ++ d : Byte) &&& (x' ++ d' : Byte) = (x &&& x') ++ (d &&& d') := BitVec.and_append

theorem cmdWord_and (a0 a1 a2 b0 b1 b2 : Byte) :
    cmdWord a0 a1 a2 &&& cmdWord b0 b1 b2 = cmdWord (a0 &&& b0) (a1 &&& b1) (a2 &&& b2) :=
  BitVec.and_append.trans (congrArg (· ++ (a2 &&& b2)) BitVec.and_append)

/-- Clearing bit 7 of a data byte leaves its seven data bits. -/
theorem dataByte_and_mask (x : BitVec 1) (d : Data7) : (x ++ d : Byte) &&& 0x7F#8 = 0#1 ++ d :=
  calc (x ++ d : Byte) &&& 0x7F#8
    _ = (x &&& 0#1) ++ (d &&& 0x7F#7) := dataByte_and x 0#1 d 0x7F#7
    _ = 0#1 ++ d := by rw [BitVec.and_zero, data7_and_mask]

/-- A command word is its fields and the two ignored bits. -/
theorem cmdWord_of_fields (w : CmdWord) :
    ∃ x y : BitVec 1, w = cmdWord (w.h ++ w.c) (x ++ w.d1) (y ++ w.d2) := by
  refine ⟨BitVec.extractLsb' 15 1 w, BitVec.extractLsb' 7 1 w, BitVec.eq_of_toNat_eq ?_⟩
  rw [cmdWord_toNat, statusByte_toNat, dataByte_toNat, dataByte_toNat, CmdWord.h_toNat, CmdWord.c_toNat, CmdWord.d1_toNat,
    CmdWord.d2_toNat]
  have hw := w.isLt
  simp only [BitVec.extractLsb'_toNat, Nat.shiftRight_eq_div_pow]
  omega

/-- Row 1's condition, bit 23 of the word, as a condition on the status nibble. -/
theorem statusBit_eq_zero_iff (w : CmdWord) : BitVec.extractLsb' 23 1 w = 0#1 ↔ w.h < 0x8#4 := by
  have hw := w.isLt
  rw [← BitVec.toNat_inj, BitVec.lt_def, CmdWord.h_toNat]
  simp only [BitVec.extractLsb'_toNat, Nat.shiftRight_eq_div_pow, BitVec.toNat_ofNat]
  omega

theorem CmdWord.extract_h (w : CmdWord) : BitVec.extractLsb' 20 3 w = w.h.setWidth 3 := by
  apply BitVec.eq_of_toNat_eq
  rw [BitVec.toNat_setWidth, CmdWord.h_toNat, BitVec.extractLsb'_toNat, Nat.shiftRight_eq_div_pow]
  omega

theorem CmdWord.extract_d1 (w : CmdWord) : BitVec.extractLsb' 8 3 w = w.d1.setWidth 3 := by
  apply BitVec.eq_of_toNat_eq
  rw [BitVec.toNat_setWidth, CmdWord.d1_toNat, BitVec.extractLsb'_toNat, Nat.shiftRight_eq_div_pow]
  omega

/-! ## The row and the instruction of the fields (30_encoding.md R133, R135) -/

/-- R133's condition of a row on the status nibble and the data, with the rows before it taken out. -/
def MidiRow.Selects (h : Nibble) (d1 d2 : Data7) : MidiRow → Prop
  | .ignData => h < 0x8#4
  | .noteOff => h = 0x8#4
  | .noteOnV0 => h = 0x9#4 ∧ d2 = 0#7
  | .noteOn => h = 0x9#4 ∧ d2 ≠ 0#7
  | .ignPolyPressure => h = 0xA#4
  | .ccSustain => h = 0xB#4 ∧ d1 = 0x40#7
  | .ccPanic => h = 0xB#4 ∧ 0x78#7 ≤ d1
  | .ccOther => h = 0xB#4 ∧ isOtherController d1 = true
  | .ignProgram => h = 0xC#4
  | .ignChannelPressure => h = 0xD#4
  | .pitchBend => h = 0xE#4
  | .ignSystem => h = 0xF#4

/-- The instruction that a row assembles from the fields. -/
def MidiRow.instr (h c : Nibble) (d1 d2 : Data7) : MidiRow → Instr
  | .ignData => .midiIgnData (h.setWidth 3) c d1 d2
  | .noteOff => .midiNoteOff c d1 d2
  | .noteOnV0 => .midiNoteOnV0 c d1
  | .noteOn => .midiNoteOn c d1 d2
  | .ignPolyPressure => .midiIgnPolyPressure c d1 d2
  | .ccSustain => .midiCcSustain c d2
  | .ccPanic => .midiCcPanic c (d1.setWidth 3) d2
  | .ccOther => .midiCcOther c d1 d2
  | .ignProgram => .midiIgnProgram c d1 d2
  | .ignChannelPressure => .midiIgnChannelPressure c d1 d2
  | .pitchBend => .midiPitchBend c d1 d2
  | .ignSystem => .midiIgnSystem c d1 d2

theorem decodeWord_eq_instr (w : CmdWord) : decodeWord w = (rowOf w).instr w.h w.c w.d1 w.d2 := by
  unfold decodeWord
  cases rowOf w
  case ignData => rw [CmdWord.extract_h]; rfl
  case ccPanic => rw [CmdWord.extract_d1]; rfl
  all_goals rfl

theorem rowOf_of_selects {w : CmdWord} {r : MidiRow} (hr : r.Selects w.h w.d1 w.d2) : rowOf w = r := by
  simp only [rowOf, statusBit_eq_zero_iff]
  cases r
  case ignData => exact if_pos hr
  case noteOnV0 | noteOn | ccSustain =>
    obtain ⟨hh, hd⟩ := hr
    simp [hh, hd]
  case ccPanic =>
    obtain ⟨hh, hd⟩ := hr
    have hne : w.d1 ≠ 0x40#7 := fun e => absurd (e ▸ hd) (by decide)
    simp [hh, hd, hne]
  case ccOther =>
    obtain ⟨hh, hd⟩ := hr
    simp only [isOtherController, Bool.and_eq_true, bne_iff_ne, decide_eq_true_eq] at hd
    simp [hh, hd.1, BitVec.not_le.mpr hd.2]
  all_goals
    have hh : w.h = _ := hr
    simp [hh]

/-- A status nibble is below 8 or one of the eight of R133 (R134). -/
theorem nibble_cases (h : Nibble) :
    h < 0x8#4 ∨ h = 0x8#4 ∨ h = 0x9#4 ∨ h = 0xA#4 ∨ h = 0xB#4 ∨ h = 0xC#4 ∨ h = 0xD#4 ∨ h = 0xE#4 ∨ h = 0xF#4 := by
  revert h
  decide

/-- A controller is the sustain pedal, a panic controller or another (R134). -/
theorem controller_cases (d1 : Data7) : d1 = 0x40#7 ∨ 0x78#7 ≤ d1 ∨ isOtherController d1 = true := by
  by_cases hs : d1 = 0x40#7
  · exact .inl hs
  by_cases hp : 0x78#7 ≤ d1
  · exact .inr (.inl hp)
  · exact .inr (.inr (by simp [isOtherController, hs, BitVec.not_le.mp hp]))

/-- The conditions cover all fields (R134). -/
theorem exists_selects (h : Nibble) (d1 d2 : Data7) : ∃ r : MidiRow, r.Selects h d1 d2 := by
  rcases nibble_cases h with hh | hh | hh | hh | hh | hh | hh | hh | hh
  · exact ⟨.ignData, hh⟩
  · exact ⟨.noteOff, hh⟩
  · by_cases hd : d2 = 0#7
    · exact ⟨.noteOnV0, hh, hd⟩
    · exact ⟨.noteOn, hh, hd⟩
  · exact ⟨.ignPolyPressure, hh⟩
  · rcases controller_cases d1 with hd | hd | hd
    · exact ⟨.ccSustain, hh, hd⟩
    · exact ⟨.ccPanic, hh, hd⟩
    · exact ⟨.ccOther, hh, hd⟩
  · exact ⟨.ignProgram, hh⟩
  · exact ⟨.ignChannelPressure, hh⟩
  · exact ⟨.pitchBend, hh⟩
  · exact ⟨.ignSystem, hh⟩

/-- The row that the fields select is the one every message of these fields decodes by, whatever the ignored bits. -/
theorem decode_of_selects {h : Nibble} {d1 d2 : Data7} {r : MidiRow} (hr : r.Selects h d1 d2) (c : Nibble) (x y : BitVec 1) :
    decode [h ++ c, x ++ d1, y ++ d2] = .ok (r.instr h c d1 d2) := by
  obtain ⟨eh, ec, e1, e2⟩ := cmdWord_fields h c x y d1 d2
  have hrow : rowOf (cmdWord (h ++ c) (x ++ d1) (y ++ d2)) = r := rowOf_of_selects (by rwa [eh, e1, e2])
  show Except.ok (decodeWord (cmdWord (h ++ c) (x ++ d1) (y ++ d2))) = _
  rw [decodeWord_eq_instr, hrow, eh, ec, e1, e2]

theorem decode_message_of_selects {h : Nibble} {d1 d2 : Data7} {r : MidiRow} (hr : r.Selects h d1 d2) (c : Nibble) :
    decode (message h c d1 d2) = .ok (r.instr h c d1 d2) := decode_of_selects hr c 0#1 0#1

/-! ## Encoding the row's instruction (30_encoding.md R130) -/

theorem statusLow_append {h : Nibble} (hh : h < 0x8#4) : 0#1 ++ h.setWidth 3 = h := by
  revert h
  decide

theorem setWidth_statusLow (h : BitVec 3) : (0#1 ++ h : Nibble).setWidth 3 = h := by
  revert h
  decide

theorem statusLow_lt (h : BitVec 3) : (0#1 ++ h : Nibble) < 0x8#4 := by
  revert h
  decide

theorem panicController_append {d1 : Data7} (hd : 0x78#7 ≤ d1) : 0xF#4 ++ d1.setWidth 3 = d1 := by
  revert d1
  decide

theorem setWidth_panicController (k : BitVec 3) : (0xF#4 ++ k : Data7).setWidth 3 = k := by
  revert k
  decide

theorem panicController_le (k : BitVec 3) : 0x78#7 ≤ (0xF#4 ++ k : Data7) := by
  revert k
  decide

theorem encode_instr {h : Nibble} {d1 d2 : Data7} {r : MidiRow} (hr : r.Selects h d1 d2) (c : Nibble) :
    encode (r.instr h c d1 d2) = some (message h c d1 d2) := by
  cases r
  case ignData => exact congrArg (fun n => some (message n c d1 d2)) (statusLow_append hr)
  case ccPanic =>
    obtain ⟨rfl, hd⟩ := hr
    exact congrArg (fun d => some (message 0xB c d d2)) (panicController_append hd)
  case noteOnV0 | ccSustain =>
    obtain ⟨rfl, rfl⟩ := hr
    rfl
  case noteOn | ccOther =>
    obtain ⟨rfl, -⟩ := hr
    rfl
  all_goals
    cases hr
    rfl

/-- An instruction that its row assembles from fields the row selects has an encoding, which decodes to it. -/
theorem roundTrips_of_selects {i : Instr} (r : MidiRow) (h c : Nibble) (d1 d2 : Data7) (hi : r.instr h c d1 d2 = i)
    (hr : i.wellFormed = true → r.Selects h d1 d2) : Safety.RoundTrips i := by
  intro hwf
  rw [← hi]
  exact ⟨message h c d1 d2, encode_instr (hr hwf) c, decode_message_of_selects (hr hwf) c⟩

/-! ## Pseudo-commands (30_encoding.md R146) -/

theorem decode_noteOn (n v : Data7) :
    decode (PseudoCommand.bytes (.noteOn n v)) = .ok (if v = 0 then .midiNoteOnV0 0 n else .midiNoteOn 0 n v) := by
  split
  case isTrue hv => exact decode_message_of_selects (r := .noteOnV0) ⟨rfl, hv⟩ 0
  case isFalse hv => exact decode_message_of_selects (r := .noteOn) ⟨rfl, hv⟩ 0

theorem decode_noteOff (n : Data7) : decode (PseudoCommand.bytes (.noteOff n)) = .ok (.midiNoteOff 0 n 0) :=
  decode_message_of_selects (r := .noteOff) rfl 0

/-- Only `noteon <n> 0` is not a pseudo-command (R146). -/
theorem pseudoCommand_not_wellFormed_iff (p : PseudoCommand) : p.wellFormed = false ↔ ∃ n, p = .noteOn n 0 := by
  cases p
  all_goals simp [PseudoCommand.wellFormed]

theorem bend_message (b : BitVec 14) : ∃ d1 d2 : Data7,
    PseudoCommand.bytes (.bend b) = [0xE0#8, 0#1 ++ d1, 0#1 ++ d2] ∧
      decode (PseudoCommand.bytes (.bend b)) = .ok (.midiPitchBend 0 d1 d2) ∧
      d1.toNat = b.toNat % 128 ∧ d2.toNat = b.toNat / 128 := by
  refine ⟨_, _, rfl, decode_message_of_selects (r := .pitchBend) rfl 0, ?_, ?_⟩
  all_goals
    have hb := b.isLt
    simp only [BitVec.extractLsb'_toNat, Nat.shiftRight_eq_div_pow]
    omega

/-! ## The table as masks on the fields (30_encoding.md R133) -/

/-- The word with these fields in the positions that a row's match and mask may name, 0 in the ignored ones. -/
def fieldsWord (h : Nibble) (d1 d2 : Data7) : CmdWord := cmdWord (h ++ 0#4) (0#1 ++ d1) (0#1 ++ d2)

theorem fieldsWord_inj {h h' : Nibble} {d1 d1' d2 d2' : Data7} :
    fieldsWord h d1 d2 = fieldsWord h' d1' d2' ↔ h = h' ∧ d1 = d1' ∧ d2 = d2' := by
  refine ⟨fun e => ?_, fun ⟨eh, e1, e2⟩ => by rw [eh, e1, e2]⟩
  obtain ⟨hh, -, hd1, hd2⟩ := cmdWord_fields h 0#4 0#1 0#1 d1 d2
  obtain ⟨hh', -, hd1', hd2'⟩ := cmdWord_fields h' 0#4 0#1 0#1 d1' d2'
  unfold fieldsWord at e
  exact ⟨by rw [← hh, e, hh'], by rw [← hd1, e, hd1'], by rw [← hd2, e, hd2']⟩

/-- Masking a word is masking its fields. -/
theorem and_fieldsWord (w : CmdWord) (h : Nibble) (d1 d2 : Data7) :
    w &&& fieldsWord h d1 d2 = fieldsWord (w.h &&& h) (w.d1 &&& d1) (w.d2 &&& d2) := by
  obtain ⟨x, y, e⟩ := cmdWord_of_fields w
  conv_lhs => rw [e]
  rw [fieldsWord, cmdWord_and, statusByte_and, dataByte_and, dataByte_and]
  simp only [BitVec.and_zero]
  rfl

theorem accepts_iff {r : MidiRow} {w : CmdWord} {vh mh : Nibble} {v1 v2 m1 m2 : Data7} :
    (TableRow.mk r (fieldsWord vh v1 v2) (fieldsWord mh m1 m2)).accepts w = true ↔
      w.h &&& mh = vh ∧ w.d1 &&& m1 = v1 ∧ w.d2 &&& m2 = v2 := by
  rw [TableRow.accepts, beq_iff_eq, and_fieldsWord, fieldsWord_inj]

/-- The mask of row 7 (`d1 & 0x78 = 0x78`) takes the controllers from 0x78 up. -/
theorem panicMask_iff (d1 : Data7) : d1 &&& 0x78#7 = 0x78#7 ↔ 0x78#7 ≤ d1 := by
  revert d1
  decide

theorem ignDataMask_iff (h : Nibble) : h &&& 0x8#4 = 0#4 ↔ h < 0x8#4 := by
  revert h
  decide

theorem nibble_and_mask (h : Nibble) : h &&& 0xF#4 = h := BitVec.and_allOnes

/-- spec/opcode_table.json's match and mask numbers, read as fields. -/
theorem midiTable_eq_fields : midiTable =
    [ ⟨.ignData, fieldsWord 0#4 0#7 0#7, fieldsWord 0x8#4 0#7 0#7⟩,
      ⟨.noteOff, fieldsWord 0x8#4 0#7 0#7, fieldsWord 0xF#4 0#7 0#7⟩,
      ⟨.noteOnV0, fieldsWord 0x9#4 0#7 0#7, fieldsWord 0xF#4 0#7 0x7F#7⟩,
      ⟨.noteOn, fieldsWord 0x9#4 0#7 0#7, fieldsWord 0xF#4 0#7 0#7⟩,
      ⟨.ignPolyPressure, fieldsWord 0xA#4 0#7 0#7, fieldsWord 0xF#4 0#7 0#7⟩,
      ⟨.ccSustain, fieldsWord 0xB#4 0x40#7 0#7, fieldsWord 0xF#4 0x7F#7 0#7⟩,
      ⟨.ccPanic, fieldsWord 0xB#4 0x78#7 0#7, fieldsWord 0xF#4 0x78#7 0#7⟩,
      ⟨.ccOther, fieldsWord 0xB#4 0#7 0#7, fieldsWord 0xF#4 0#7 0#7⟩,
      ⟨.ignProgram, fieldsWord 0xC#4 0#7 0#7, fieldsWord 0xF#4 0#7 0#7⟩,
      ⟨.ignChannelPressure, fieldsWord 0xD#4 0#7 0#7, fieldsWord 0xF#4 0#7 0#7⟩,
      ⟨.pitchBend, fieldsWord 0xE#4 0#7 0#7, fieldsWord 0xF#4 0#7 0#7⟩,
      ⟨.ignSystem, fieldsWord 0xF#4 0#7 0#7, fieldsWord 0xF#4 0#7 0#7⟩ ] := by decide

/-- The first row that accepts a word, as a chain of tests. -/
theorem map_find?_cons {p : TableRow → Bool} (a : TableRow) (l : List TableRow) :
    ((a :: l).find? p).map TableRow.row = if p a = true then some a.row else (l.find? p).map TableRow.row := by
  cases h : p a <;> simp [h]

end Sys2Proof

namespace Sys2Proof.Machine

/-! ## Running a row (46_host_render.md R374) -/

/-- A row is a MIDI command with its own message. -/
theorem exec_row_eq_midiCommand {i : Instr} {m : List Byte} (h : encode i = some m) :
    ∃ run, ∀ s, exec i s = midiCommand m run s := by
  cases i
  case midiIgnData | midiNoteOff | midiNoteOnV0 | midiNoteOn | midiIgnPolyPressure | midiCcSustain | midiCcPanic
      | midiCcOther | midiIgnProgram | midiIgnChannelPressure | midiPitchBend | midiIgnSystem =>
    cases h
    exact ⟨_, fun _ => rfl⟩
  all_goals cases h

theorem exec_row_notReady {s : State} {i : Instr} {m : List Byte} (hr : s.engine.ready = false)
    (h : encode i = some m) : exec i s = .next (s.refuse (.midi m)) := by
  obtain ⟨run, hrun⟩ := exec_row_eq_midiCommand h
  rw [hrun, midiCommand_notReady hr]

theorem execHostMidi_notReady {s : State} (hr : s.engine.ready = false) (bytes : List Byte) :
    execHostMidi bytes s = .next (s.refuse (.midi bytes)) := midiCommand_notReady hr _ _

/-- What a row runs does not depend on the channel, which only its message carries. -/
theorem exec_instr_eq_midiCommand (r : MidiRow) (h : Nibble) (d1 d2 : Data7) :
    ∃ run, ∀ c s, ∃ m, exec (r.instr h c d1 d2) s = midiCommand m run s := by
  cases r
  all_goals exact ⟨_, fun _ _ => ⟨_, rfl⟩⟩

theorem exec_instr_channel {s : State} (hr : s.engine.ready = true) (r : MidiRow) (h c c' : Nibble) (d1 d2 : Data7) :
    exec (r.instr h c d1 d2) s = exec (r.instr h c' d1 d2) s := by
  obtain ⟨run, hrun⟩ := exec_instr_eq_midiCommand r h d1 d2
  obtain ⟨m, hm⟩ := hrun c s
  obtain ⟨m', hm'⟩ := hrun c' s
  rw [hm, hm', midiCommand_ready hr, midiCommand_ready hr]

end Sys2Proof.Machine

/-! ## The obligations -/

namespace Sys2Proof

open Sys2Proof.Machine

/-- Settles O6: each row's fields select the row and give back the operands; what a row leaves to the check of
well-formedness (a velocity not 0, another controller) is the rest of its condition. -/
theorem decodeOfEncodeIsIdentity : Obligations.DecodeOfEncodeIsIdentity := by
  intro h c d1 d2 k
  refine ⟨?ignData, ?noteOff, ?noteOnV0, ?noteOn, ?ignPolyPressure, ?ccSustain, ?ccPanic, ?ccOther, ?ignProgram,
    ?ignChannelPressure, ?pitchBend, ?ignSystem⟩
  case ignData =>
    exact roundTrips_of_selects .ignData (0#1 ++ h) c d1 d2
      (congrArg (Instr.midiIgnData · c d1 d2) (setWidth_statusLow h)) fun _ => statusLow_lt h
  case noteOff => exact roundTrips_of_selects .noteOff 0x8 c d1 d2 rfl fun _ => rfl
  case noteOnV0 => exact roundTrips_of_selects .noteOnV0 0x9 c d1 0 rfl fun _ => ⟨rfl, rfl⟩
  case noteOn => exact roundTrips_of_selects .noteOn 0x9 c d1 d2 rfl fun hd => ⟨rfl, bne_iff_ne.mp hd⟩
  case ignPolyPressure => exact roundTrips_of_selects .ignPolyPressure 0xA c d1 d2 rfl fun _ => rfl
  case ccSustain => exact roundTrips_of_selects .ccSustain 0xB c 0x40 d2 rfl fun _ => ⟨rfl, rfl⟩
  case ccPanic =>
    exact roundTrips_of_selects .ccPanic 0xB c (0xF#4 ++ k) d2
      (congrArg (Instr.midiCcPanic c · d2) (setWidth_panicController k)) fun _ => ⟨rfl, panicController_le k⟩
  case ccOther => exact roundTrips_of_selects .ccOther 0xB c d1 d2 rfl fun hd => ⟨rfl, hd⟩
  case ignProgram => exact roundTrips_of_selects .ignProgram 0xC c d1 d2 rfl fun _ => rfl
  case ignChannelPressure => exact roundTrips_of_selects .ignChannelPressure 0xD c d1 d2 rfl fun _ => rfl
  case pitchBend => exact roundTrips_of_selects .pitchBend 0xE c d1 d2 rfl fun _ => rfl
  case ignSystem => exact roundTrips_of_selects .ignSystem 0xF c d1 d2 rfl fun _ => rfl

/-- Settles O7: the bytes are a status nibble, a channel and two data bytes; some row selects these fields, and its
instruction is encoded by them with the ignored bits 0. -/
theorem encodeOfDecodeKeepsTheReadBits : Obligations.EncodeOfDecodeKeepsTheReadBits := by
  intro b0 b1 b2
  obtain ⟨h, c, rfl⟩ := byte_eq_nibbles b0
  obtain ⟨x, d1, rfl⟩ := byte_eq_dataByte b1
  obtain ⟨y, d2, rfl⟩ := byte_eq_dataByte b2
  obtain ⟨r, hr⟩ := exists_selects h d1 d2
  have hdecode := decode_of_selects hr c x y
  rw [dataByte_and_mask, dataByte_and_mask]
  exact ⟨r.instr h c d1 d2, hdecode, wellFormed_of_decode hdecode, encode_instr hr c⟩

/-- Settles O8: read as fields, the masks are the conditions of `rowOf`, test by test; of the last test only that it
succeeds is left, which is R134. -/
theorem decodeTakesTheFirstMatchingRow : Obligations.DecodeTakesTheFirstMatchingRow := by
  intro w
  rw [midiTable_eq_fields]
  simp only [map_find?_cons, accepts_iff, ignDataMask_iff, nibble_and_mask, data7_and_mask, panicMask_iff, BitVec.and_zero,
    and_true, true_and]
  simp only [rowOf, statusBit_eq_zero_iff, apply_ite some]
  iterate 11 refine ite_congr rfl (fun _ => rfl) fun _ => ?_
  refine if_pos ?_
  by_contra hF
  rcases nibble_cases w.h with hh | hh | hh | hh | hh | hh | hh | hh | hh
  all_goals contradiction

/-- Settles O9: both messages decode by the row their common fields select, and that row runs alike for all channels. -/
theorem channelAndHighDataBitsAreIgnored : Obligations.ChannelAndHighDataBitsAreIgnored := by
  intro h c c' d1 d2 x x' y y' s hready
  obtain ⟨r, hr⟩ := exists_selects h d1 d2
  calc exec (.hostMidi [h ++ c, x ++ d1, y ++ d2]) s
    _ = exec (r.instr h c d1 d2) s := execHostMidi_of_decode hready (decode_of_selects hr c x y)
    _ = exec (r.instr h c' d1 d2) s := exec_instr_channel hready r h c c' d1 d2
    _ = exec (.hostMidi [h ++ c', x' ++ d1, y' ++ d2]) s :=
      (execHostMidi_of_decode hready (decode_of_selects hr c' x' y')).symm

/-- Settles O40: ready, the call runs the decoded row; not ready, the call and the row are refused alike. -/
theorem midiRunsItsRowOrIsRefused : Obligations.MidiRunsItsRowOrIsRefused := fun _ bytes _ =>
  ⟨execHostMidi_of_decode, fun hr => execHostMidi_notReady hr bytes, exec_row_notReady⟩

/-- Settles O10: the fixed messages are computed; the note and bend messages decode by the row of their fields. -/
theorem sampleMessagesDecodeToTheirRows : Obligations.SampleMessagesDecodeToTheirRows := by
  refine ⟨by decide, by decide, by decide, by decide, by decide, by decide, by decide, by decide, by decide, by decide,
    by decide, by decide, rfl, fun _ _ _ _ _ => rfl, fun _ => rfl, fun _ _ => rfl,
    fun p => ⟨rfl, pseudoCommand_not_wellFormed_iff p⟩,
    fun n v => ⟨rfl, decode_noteOn n v, rfl, decode_noteOff n⟩,
    rfl, rfl, rfl, rfl, by decide, by decide, by decide, by decide, bend_message⟩

end Sys2Proof
end

section
/-! SUPPORT AND OBLIGATIONS O13 TO O16: the oscillator (40_oscillator.md). First that non-finite values stay non-finite
and what storing an oscillator's call leaves behind, then one lemma per operation of the oscillator, then the
statements. -/

namespace Sys2Proof.F32

open Sys2Proof.Safety

/-! ## Non-finite operands give non-finite results (00_scope.md R10) -/

@[simp] theorem isFinite_flush (x : F32) : isFinite (flush x) = isFinite x := by simp [isFinite]

@[simp] theorem isFinite_neg (x : F32) : isFinite (neg x) = isFinite x := by cases x <;> rfl

theorem addExact_notFinite {x y : F32} (h : isFinite x = false ∨ isFinite y = false) :
    isFinite (addExact x y) = false := by
  cases x with
  | nan => rfl
  | inf s =>
    cases y with
    | nan => rfl
    | inf t => cases s <;> cases t <;> rfl
    | num t e f => rfl
  | num s e f =>
    cases y with
    | nan => rfl
    | inf t => rfl
    | num t e' f' => rcases h with h | h <;> cases h

theorem mulExact_notFinite {x y : F32} (h : isFinite x = false) : isFinite (mulExact x y) = false := by
  cases x with
  | nan => rfl
  | inf s =>
    cases y with
    | nan => rfl
    | inf t => rfl
    | num t e f =>
      rw [mulExact]
      split <;> rfl
  | num s e f => cases h

theorem add_notFinite {x y : F32} (h : isFinite x = false ∨ isFinite y = false) : isFinite (add x y) = false := by
  rw [add, isFinite_flush]
  exact addExact_notFinite (by rwa [isFinite_flush, isFinite_flush])

theorem mul_notFinite {x y : F32} (h : isFinite x = false) : isFinite (mul x y) = false := by
  rw [mul, isFinite_flush]
  exact mulExact_notFinite (by rwa [isFinite_flush])

end Sys2Proof.F32

namespace Sys2Proof.Machine

open Sys2Proof.Safety

/-! ## Storing what an oscillator's call gave -/

theorem updOsc_osc_same (s : State) (v : VoiceIdx) (o : OscId) (f : Osc → Osc) :
    ((s.updOsc v o f).voice v).osc o = f ((s.voice v).osc o) := by simp

@[simp] theorem putOscStep_osc_same (s : State) (v : VoiceIdx) (o : OscId) (r : OscStep) :
    ((s.putOscStep v o r).voice v).osc o = r.osc := updOsc_osc_same s v o fun _ => r.osc

@[simp] theorem putOscStep_periodLow (s : State) (v : VoiceIdx) (o : OscId) (r : OscStep) :
    (s.putOscStep v o r).periodLow = (s.periodLow || r.low) := rfl

@[simp] theorem putOscStep_ret (s : State) (v : VoiceIdx) (o : OscId) (r : OscStep) :
    (s.putOscStep v o r).ret = .word r.out := rfl

@[simp] theorem returned_putOscStep (s : State) (v : VoiceIdx) (o : OscId) (r : OscStep) :
    returned (s.putOscStep v o r) = r.out := rfl

/-! ## nextSample (40_oscillator.md R203) -/

@[simp] theorem advance_phase (o : Osc) : o.advance.phase = o.phase.add o.inc := rfl

/-- The reflection writes the phase and the increment, no other register. -/
theorem reflect_eq (o : Osc) : o.reflect = { o with phase := o.reflect.phase, inc := o.reflect.inc } := by
  unfold Osc.reflect
  split <;> rfl

theorem reflect_phase_inc (o : Osc) :
    if o.phase.gt o.phaseMax = true then
      o.reflect.phase = (o.phaseMax.add o.phaseMax).sub o.phase ∧ o.reflect.inc = o.inc.neg
    else o.reflect.phase = o.phase ∧ o.reflect.inc = o.inc := by
  unfold Osc.reflect
  split <;> exact ⟨rfl, rfl⟩

/-- A sample inside a cycle: the sine recurrence on the reflected oscillator. -/
theorem insideCycle_eq (o : Osc) :
    o.insideCycle =
      { osc := { o with phase := o.reflect.phase, inc := o.reflect.inc, sin0 := (o.dsin.mul o.sin0).sub o.sin1,
                        sin1 := o.sin0 }
        out := (((o.dsin.mul o.sin0).sub o.sin1).div o.reflect.phase).sub o.dc
        low := false } := by
  rw [Osc.insideCycle, reflect_eq]

/-! ## oscReset and the sample after it (40_oscillator.md R201, R211) -/

/-- The phase of a reset oscillator stays 0.0 when it advances by its increment 0.0. -/
theorem advance_oscReset (o : Osc) : o.oscReset.advance = o.oscReset := by
  have hphase : K.zero.add K.zero = K.zero := by rw [F32.zero_eq, F32.add_zero_self]
  rw [Osc.advance, Osc.oscReset, hphase]

theorem oscReset_phase_le_trigger (o : Osc) : (o.oscReset.phase.add o.oscReset.inc).le K.piOver4 = true := by
  rw [← advance_phase, advance_oscReset]
  show K.zero.le K.piOver4 = true
  decide +kernel

theorem nextSample_oscReset (o : Osc) : o.oscReset.nextSample = o.oscReset.beginCycle := by
  rw [Osc.nextSample, advance_phase, if_pos (oscReset_phase_le_trigger o), advance_oscReset]

/-- The square of the phase -0.0 is below the threshold, so the impulse is the amplitude itself. -/
theorem beginCycle_oscReset_out (o : Osc) :
    o.oscReset.beginCycle.out = o.amplitude.sub o.cycleConstants.dc := by
  have hsmall : ¬ (K.zero.neg.mul K.zero.neg).gtPhaseEps = true := by decide +kernel
  exact congrArg (F32.sub · _) (if_neg hsmall)

/-! ## oscRender (40_oscillator.md R207) -/

/-- A non-finite sample or integrator leaves the integrator non-finite, whatever the polarity. -/
theorem leakySum_notFinite {saw out : F32} (negate : Bool) (h : isFinite out = false ∨ isFinite saw = false) :
    isFinite ((saw.mul K.leak).add (if negate then out.neg else out)) = false := by
  refine F32.add_notFinite (h.symm.imp F32.mul_notFinite fun hout => ?_)
  cases negate
  · exact hout
  · exact (F32.isFinite_neg out).trans hout

/-! ## squareWave (40_oscillator.md R209) -/

/-- The other oscillator is rising, falling or was never started. -/
theorem lockPhase_cases (o : Osc) :
    (o.inc.gt K.zero = true ∧ o.lockPhase = ((o.phaseMax.add o.phaseMax).sub o.phase, o.inc.neg)) ∨
      (o.inc.gt K.zero = false ∧ o.inc.lt K.zero = true ∧ o.lockPhase = (o.phase, o.inc)) ∨
      (o.inc.gt K.zero = false ∧ o.inc.lt K.zero = false ∧ o.lockPhase = (K.pi.neg, K.pi)) := by
  unfold Osc.lockPhase
  cases o.inc.gt K.zero with
  | true => exact .inl ⟨rfl, rfl⟩
  | false =>
    cases o.inc.lt K.zero with
    | true => exact .inr (.inl ⟨rfl, rfl, rfl⟩)
    | false => exact .inr (.inr ⟨rfl, rfl, rfl⟩)

end Sys2Proof.Machine

/-! ## The obligations -/

namespace Sys2Proof

open Sys2Proof.Machine Sys2Proof.Safety

/-- Settles O14: a cycle start and a sample inside a cycle, each read off the branch of nextSample that runs. -/
theorem nextSampleStepsImpulseTrain : Obligations.NextSampleStepsImpulseTrain := by
  intro s v o
  refine ⟨_, rfl, oscFrame_putOscStep s v o _, ?_⟩
  obtain ⟨hperiod, hamplitude, hmodulation, hsaw, hpolarity⟩ := nextSample_kept ((s.voice v).osc o)
  simp only [putOscStep_osc_same, putOscStep_periodLow, putOscStep_ret]
  refine ⟨hperiod, hamplitude, hmodulation, hsaw, hpolarity, ?_⟩
  rw [← advance_phase]
  rcases nextSample_cases ((s.voice v).osc o) with ⟨hle, hn⟩ | ⟨hle, hn⟩
  · rw [if_pos hle, hn]
    exact ⟨rfl, rfl, rfl, rfl, rfl, rfl, rfl, rfl, rfl⟩
  · rw [if_neg (Bool.eq_false_iff.mp hle), hn, insideCycle_eq]
    exact ⟨reflect_phase_inc ((s.voice v).osc o).advance, rfl, rfl, rfl, Bool.or_false _, rfl, rfl, rfl⟩

/-- Settles O15: both calls start from the same nextSample, and a non-finite term makes the leaky sum non-finite. -/
theorem oscRenderIntegratesTheTrain : Obligations.OscRenderIntegratesTheTrain := by
  intro s v o
  refine ⟨_, _, rfl, rfl, oscFrame_putOscStep s v o _, rfl, ?_⟩
  simp only [putOscStep_osc_same, putOscStep_ret, returned_putOscStep]
  exact ⟨rfl, rfl, leakySum_notFinite _⟩

/-- Settles O16, case by case of what osc1 is doing. -/
theorem squareWaveLocksHalfACycleBehind : Obligations.SquareWaveLocksHalfACycleBehind := by
  intro s v newPeriod
  refine ⟨_, rfl, oscFrame_updOsc s v .osc2 _, rfl, (updOsc_osc_same s v .osc2 _).trans ?_⟩
  rcases lockPhase_cases (s.voice v).osc1 with ⟨hup, h⟩ | ⟨hup, hdown, h⟩ | ⟨hup, hdown, h⟩
  · simp only [Osc.squareWave, h, hup, if_true]
    rfl
  · simp only [Osc.squareWave, h, hup, hdown, if_true, if_false, Bool.false_eq_true]
    rfl
  · simp only [Osc.squareWave, h, hup, hdown, if_false, Bool.false_eq_true]
    rfl

/-- Settles O13: a reset oscillator's phase is 0.0, so its next sample begins a cycle and is the bare impulse. -/
theorem oscResetClearsPhaseState : Obligations.OscResetClearsPhaseState := by
  intro s v o
  refine ⟨_, _, rfl, oscFrame_updOsc s v o _, rfl, rfl, ?_⟩
  simp only [putOscStep_osc_same, putOscStep_ret, updOsc_osc_same, nextSample_oscReset, beginCycle_oscReset_out]
  exact ⟨rfl, oscReset_phase_le_trigger ((s.voice v).osc o), rfl, rfl⟩

end Sys2Proof
end

section
/-! SUPPORT AND OBLIGATIONS O17 TO O19: the filter (41_filter.md). First sums, differences and products with a zero, then
the filter that has been reset, then the statements. -/

namespace Sys2Proof.F32

open Sys2Proof.Safety

/-! ## A zero as an operand (00_scope.md R10) -/

theorem exists_num_of_isFinite {x : F32} (h : isFinite x = true) : ∃ s e f, x = .num s e f := by
  cases x with
  | nan => cases h
  | inf s => cases h
  | num s e f => exact ⟨s, e, f, rfl⟩

theorem zero_add_zero (s t : Bool) : add (zero s) (zero t) = zero (s && t) := by
  cases s <;> cases t <;> rfl

/-- Zero times a finite value is exact: a zero, of the product sign. -/
theorem zero_mul_finite (s : Bool) {y : F32} (h : isFinite y = true) : ∃ t, mul (zero s) y = zero t := by
  obtain ⟨t, e, f, hy⟩ := exists_num_of_isFinite ((isFinite_flush y).trans h)
  have hexact : units 0 0 * units e f = units 0 0 * 2 ^ 149 := by
    rw [(units_zero_iff 0 0).mpr ⟨rfl, rfl⟩, Nat.zero_mul, Nat.zero_mul]
  refine ⟨s ^^ t, ?_⟩
  rw [mul, flush_zero, hy, zero, mulExact, round_exact _ _ _ (Nat.two_pow_pos 149) 0 0 hexact]
  rfl

/-- The sign is that of the value, and a zero keeps its own. -/
theorem addExact_negZero (s : Bool) (e : Fin 255) (f : BitVec 23) : addExact (.num s e f) (zero true) = .num s e f := by
  simp only [zero, addExact, signed_zero, Int.add_zero]
  split
  next hz =>
    obtain ⟨he, hf⟩ := (units_zero_iff e f).mp ((signed_eq_zero_iff s e f).mp hz)
    rw [Bool.and_true, hf, show e = 0 from Fin.ext he]
    rfl
  next hz =>
    have hsign : decide (signed s e f < 0) = s := by
      cases s with
      | false => simp [signed]
      | true =>
        simp only [signed, if_true] at hz ⊢
        exact decide_eq_true (by omega)
    have habs : (signed s e f).natAbs = units e f * 1 := by cases s <;> simp [signed]
    rw [hsign, round_exact s _ 1 Nat.one_pos e f habs]

/-- Subtracting 0.0 gives the operand as it is read. -/
theorem sub_posZero (x : F32) : sub x (zero false) = flush x := by
  have hexact : addExact (flush x) (zero true) = flush x := by
    cases flush x with
    | nan => rfl
    | inf s => rfl
    | num s e f => exact addExact_negZero s e f
  rw [sub, flush_zero]
  exact (congrArg flush hexact).trans (flush_flush x)

end Sys2Proof.F32

namespace Sys2Proof.Machine

open Sys2Proof.Safety

theorem updFilter_filter_same (s : State) (v : VoiceIdx) (f : Filter → Filter) :
    ((s.updFilter v f).voice v).filter = f (s.voice v).filter := by simp

/-! ## filterRender after filterReset (41_filter.md R242) -/

/-- Every product has a zero coefficient, and every sum starts from +0.0, which no zero added to it changes. -/
theorem filterRender_filterReset (f : Filter) {x : F32} (h : isFinite x = true) :
    f.filterReset.filterRender x = { filter := f.filterReset, out := K.zero } := by
  obtain ⟨t, hproduct⟩ := F32.zero_mul_finite false ((F32.isFinite_flush x).trans h)
  have hsquare : (F32.zero false).mul (F32.zero false) = F32.zero false := by decide +kernel
  have htwice : K.two.mul (F32.zero false) = F32.zero false := by decide +kernel
  simp only [Filter.filterReset, Filter.filterRender, F32.zero_eq, hproduct, hsquare, htwice, F32.zero_add_zero,
    Bool.false_and, F32.sub_posZero, F32.flush_zero]

end Sys2Proof.Machine

/-! ## The obligations -/

namespace Sys2Proof

open Sys2Proof.Machine Sys2Proof.Safety

/-- Settles O19: the filter stored is the reset one, and rendering a finite input with that gives it back. -/
theorem filterResetZeroesAndSilences : Obligations.FilterResetZeroesAndSilences := by
  intro s v
  have hreset := updFilter_filter_same s v Filter.filterReset
  refine ⟨_, rfl, filterFrame_updFilter s v Filter.filterReset, hreset, fun x hx => ⟨_, rfl, ?_⟩⟩
  rw [hreset, filterRender_filterReset _ hx, State.setRet_ret, State.setRet_voice, updFilter_filter_same]
  exact ⟨rfl, rfl⟩

/-- Settles O17: the filter stored is R241's, term by term. -/
theorem updateCoefficientsKeepsIntegrators : Obligations.UpdateCoefficientsKeepsIntegrators := by
  intro s v cutoff q
  refine ⟨_, rfl, filterFrame_updFilter s v _, ?_⟩
  rw [updFilter_filter_same]
  exact ⟨rfl, rfl, rfl, rfl, rfl, rfl, rfl⟩

/-- Settles O18: the filter stored and the word returned are those of R242's step. -/
theorem filterRenderStepsIntegrators : Obligations.FilterRenderStepsIntegrators := by
  intro s v x
  refine ⟨_, rfl, (filterFrame_updFilter s v _).setRet _, ?_⟩
  rw [State.setRet_voice, updFilter_filter_same]
  exact ⟨rfl, rfl⟩

end Sys2Proof
end

section
/-! SUPPORT AND OBLIGATIONS O20, O21 AND O23: the envelope (42_envelope.md). First that adding a value not below 0.0 to a
positive normal value does not lower it, then the envelope after `attack` and after `envReset`, then the statements. -/

namespace Sys2Proof.F32

open Sys2Proof.Safety

/-! ## Sums of values not below 0.0 (00_scope.md R10, R11) -/

/-- The nearest value to a number not below a finite value is that value or more: less would be further away. -/
theorem roundedFrom_ge {q : ℚ} {neg : Bool} {x : F32} (h : RoundedFrom q neg x) {s : Bool} {e : Fin 255} {f : BitVec 23}
    (hq : signed s e f ≤ q) : x = .inf neg ∨ ∃ e' f', x = .num neg e' f' ∧ signed s e f ≤ signed neg e' f' := by
  unfold RoundedFrom at h
  split at h
  · exact .inl h
  · obtain ⟨e', f', hx, hnear⟩ := h
    have hdist := (hnear s e f).1
    rw [abs_of_nonneg (sub_nonneg.mpr hq)] at hdist
    have hle : (signed s e f : ℚ) ≤ signed neg e' f' := by linarith only [hdist, le_abs_self (q - signed neg e' f')]
    exact .inr ⟨e', f', hx, by exact_mod_cast hle⟩

theorem flush_of_normal_units {s : Bool} {e : Fin 255} {f : BitVec 23} (h : 2 ^ 23 ≤ units e f) :
    flush (.num s e f) = .num s e f := by
  have he : e.val ≠ 0 := fun h0 => by
    rw [units, if_pos h0] at h
    exact absurd f.isLt (not_lt.mpr h)
  exact flush_of_normal (by simp [isSubnormal, he])

/-- The sum rounds to +infinity or to a normal value not below the second operand. -/
theorem addExact_ge_normal {s : Bool} {a e : Fin 255} {g f : BitVec 23} (hx : 0 ≤ signed s a g) (hy : 2 ^ 23 ≤ units e f) :
    addExact (.num s a g) (.num false e f) = .inf false ∨
      ∃ e' f', addExact (.num s a g) (.num false e f) = .num false e' f' ∧ units e f ≤ units e' f' := by
  have hsigned : ∀ e f, signed false e f = units e f := fun _ _ => rfl
  have hround := addExact_rounded s false a e g f
  rw [if_neg (by rw [hsigned]; omega), decide_eq_false (by rw [hsigned]; omega)] at hround
  have hsum : (signed false e f : ℚ) ≤ signed s a g + signed false e f := le_add_of_nonneg_left (by exact_mod_cast hx)
  simpa only [hsigned, Int.ofNat_le] using roundedFrom_ge hround hsum

/-- Adding a value not below 0.0 does not lower a positive normal value. -/
theorem le_add_normal {x : F32} {e : Fin 255} {f : BitVec 23} (hx : x.ge K.zero = true) (hy : 2 ^ 23 ≤ units e f) :
    le (.num false e f) (x.add (.num false e f)) = true := by
  have hy' := flush_of_normal_units (s := false) hy
  rw [ge, le, zero_eq, flush_zero] at hx
  rw [le, add, flush_flush, hy']
  cases hfx : flush x with
  | nan => rw [hfx] at hx; cases hx
  | inf s =>
    rw [hfx] at hx
    cases s with
    | false => rfl
    | true => cases hx
  | num s a g =>
    rw [hfx] at hx
    have hnonneg : 0 ≤ signed s a g := of_decide_eq_true hx
    obtain hsum | ⟨e', f', hsum, hle⟩ := addExact_ge_normal hnonneg hy
    · rw [hsum]; rfl
    · rw [hsum, flush_of_normal_units (hy.trans hle)]
      exact decide_eq_true (Int.ofNat_le.mpr hle)

theorem lt_trans_le {x y z : F32} (hxy : lt x y = true) (hyz : le y z = true) : lt x z = true := by
  obtain ⟨hx, -, hkey⟩ := (lt_iff_key x y).mp hxy
  obtain ⟨-, hz, hkey'⟩ := (le_iff_key y z).mp hyz
  exact (lt_iff_key x z).mpr ⟨hx, hz, hkey.trans_le hkey'⟩

end Sys2Proof.F32

namespace Sys2Proof.Machine

theorem updEnv_env_same (s : State) (v : VoiceIdx) (f : Env → Env) :
    ((s.updEnv v f).voice v).env = f (s.voice v).env := by simp

/-! ## The kick of the attack (42_envelope.md R261) -/

/-- `SILENCE ⊕ SILENCE` is exact. -/
theorem twiceSilence_eq : K.silence.add K.silence = .num false 114 0x51B717 := by decide +kernel

theorem attack_level_of_zero {e : Env} (h : e.level = K.zero) : e.attack.level = .ofBits 0x3951B717#32 := by
  rw [Env.attack, h, twiceSilence_eq]
  exact show K.zero.add (.num false 114 0x51B717) = .ofBits 0x3951B717#32 by decide +kernel

/-- The level is at least `2·SILENCE`. -/
theorem isActive_attack {e : Env} (h : e.level.ge K.zero = true) : e.attack.isActive = true := by
  have hkick : F32.le (K.silence.add K.silence) e.attack.level = true := by
    rw [Env.attack, twiceSilence_eq]
    exact F32.le_add_normal h (by decide)
  exact F32.lt_trans_le (by decide +kernel) hkick

theorem isInAttack_attack (e : Env) : e.attack.isInAttack = true :=
  show K.two.ge K.two = true by decide +kernel

/-! ## The envelope that has been reset (42_envelope.md R268) -/

theorem isActive_envReset (e : Env) : e.envReset.isActive = false :=
  show K.zero.gt K.silence = false by decide +kernel

theorem isInAttack_envReset (e : Env) : e.envReset.isInAttack = false :=
  show K.zero.ge K.two = false by decide +kernel

/-! ## The predicates after an operation of the envelope (42_envelope.md R266, R267) -/

theorem execIsActive_updEnv (s : State) (v : VoiceIdx) (f : Env → Env) :
    execIsActive v (s.updEnv v f) = .next ((s.updEnv v f).setRet (.flag (f (s.voice v).env).isActive)) := by
  rw [execIsActive, updEnv_env_same]

theorem execIsInAttack_updEnv (s : State) (v : VoiceIdx) (f : Env → Env) :
    execIsInAttack v (s.updEnv v f) = .next ((s.updEnv v f).setRet (.flag (f (s.voice v).env).isInAttack)) := by
  rw [execIsInAttack, updEnv_env_same]

end Sys2Proof.Machine

/-! ## The obligations -/

namespace Sys2Proof

open Sys2Proof.Machine Sys2Proof.Safety

/-- Settles O20: a level not below 0.0 is at least `2·SILENCE` after the kick, so above `SILENCE`; the new target is 2.0. -/
theorem attackKicksTheLevel : Obligations.AttackKicksTheLevel := by
  intro s v
  refine ⟨_, _, _, rfl, envFrame_updEnv s v Env.attack, execIsActive_updEnv s v Env.attack,
    execIsInAttack_updEnv s v Env.attack, ?_⟩
  rw [updEnv_env_same]
  refine ⟨rfl, attack_level_of_zero, fun h => ⟨?_, ?_⟩⟩
  · rw [State.setRet_ret, isActive_attack h]
  · rw [State.setRet_ret, isInAttack_attack]

/-- Settles O21: the envelope stored and the word returned are those of R262's step. -/
theorem nextValueStepsTheEnvelope : Obligations.NextValueStepsTheEnvelope := by
  intro s v
  refine ⟨_, rfl, (envFrame_updEnv s v Env.nextValue).setRet _, rfl, ?_⟩
  rw [State.setRet_voice, updEnv_env_same]
  rfl

/-- Settles O23: each predicate returns its comparison, and both comparisons fail with the registers at 0.0. -/
theorem statusPredicatesAndEnvReset : Obligations.StatusPredicatesAndEnvReset := by
  intro s v
  refine ⟨rfl, rfl, F32.lt_nan_right K.silence, _, rfl, envFrame_updEnv s v Env.envReset, updEnv_env_same s v _, ?_, ?_⟩
  · exact (execIsActive_updEnv s v Env.envReset).trans (by rw [isActive_envReset]; rfl)
  · exact (execIsInAttack_updEnv s v Env.envReset).trans (by rw [isInAttack_envReset]; rfl)

end Sys2Proof
end

section
/-! SUPPORT AND OBLIGATIONS O24 AND O25: the LFO and the noise generator (43_lfo_noise.md). First that dividing a whole number
up to `2^24` by `2^24` is exact, then the tick case by case and the noise sample, then the statements. -/

namespace Sys2Proof.F32

/-! ## Exact division by `2^24` (43_lfo_noise.md R296) -/

/-- A whole multiple of the least normal value is zero or normal, so no flushing touches it. -/
theorem flush_of_units_multiple {s : Bool} {e : Fin 255} {f : BitVec 23} {n k : Nat} (hk : 23 ≤ k)
    (h : units e f = n * 2 ^ k) : flush (.num s e f) = .num s e f := by
  obtain rfl | hn := Nat.eq_zero_or_pos n
  · obtain ⟨-, rfl⟩ := (units_zero_iff e f).mp (by rw [h, Nat.zero_mul])
    exact flush_of_normal (by simp [isSubnormal])
  · refine flush_of_normal_units ?_
    calc 2 ^ 23 ≤ 2 ^ k := Nat.pow_le_pow_right (by decide) hk
      _ ≤ n * 2 ^ k := Nat.le_mul_of_pos_left _ hn
      _ = units e f := h.symm

/-- A magnitude `|i|·2^k` with the sign of `i` is the value `i·2^k`. -/
theorem signed_of_units_multiple {i : Int} {e : Fin 255} {f : BitVec 23} {k : Nat} (h : units e f = i.natAbs * 2 ^ k) :
    signed (decide (i < 0)) e f = i * 2 ^ k := by
  by_cases hi : i < 0
  · simp [signed, h, hi, abs_of_neg]
  · simp [signed, h, hi, abs_of_nonneg (not_lt.mp hi)]

/-- `NOISE_SCALE` is `2^24`, that is `2^173` units. -/
theorem noiseScale_eq : K.noiseScale = .num false 151 0 := by decide +kernel

theorem units_noiseScale : units 151 0 = 2 ^ 173 := by decide +kernel

/-- The quotient of the magnitudes `n` and `2^24` is `n·2^-24`, which is a value. -/
theorem divExact_noiseScale {s : Bool} {e e' : Fin 255} {f f' : BitVec 23} {n : Nat} (h : units e f = n * 2 ^ 149)
    (h' : units e' f' = n * 2 ^ 125) : divExact (.num s e f) (.num false 151 0) = .num s e' f' := by
  have hquot : n * 2 ^ 149 * 2 ^ 149 = n * 2 ^ 125 * 2 ^ 173 := by ring
  rw [divExact, units_noiseScale, if_neg (Nat.two_pow_pos 173).ne', Bool.xor_false]
  exact round_exact s _ _ (Nat.two_pow_pos 173) e' f' (by rw [h, h', hquot])

/-- `float(i) ⊘ 2^24` is exactly `i·2^-24`. -/
theorem ofInt_div_noiseScale {i : Int} (hi : i.natAbs ≤ 2 ^ 24) :
    ∃ s e f, (ofInt i).div K.noiseScale = .num s e f ∧ signed s e f = i * 2 ^ 125 := by
  obtain ⟨e, f, hu⟩ := exists_units 149 i.natAbs hi (by decide)
  obtain ⟨e', f', hu'⟩ := exists_units 125 i.natAbs hi (by decide)
  refine ⟨decide (i < 0), e', f', ?_, signed_of_units_multiple hu'⟩
  rw [ofInt, round_whole hu, noiseScale_eq, div, flush_of_units_multiple (by decide) hu,
    flush_of_normal_units (by rw [units_noiseScale]; decide), divExact_noiseScale hu hu',
    flush_of_units_multiple (by decide) hu']

end Sys2Proof.F32

namespace Sys2Proof.Machine

/-! ## The tick (43_lfo_noise.md R291) -/

variable {s : State}

theorem lfoTick_of_tick (h : s.lfo.step - 1 ≤ 0) :
    s.lfoTick = (s.setLfo s.lfoTicked).mapVoices fun _ x => (s.setLfo s.lfoTicked).tickVoice x := if_pos h

theorem lfoTick_of_not_tick (h : ¬ s.lfo.step - 1 ≤ 0) : s.lfoTick = s.setLfo { s.lfo with step := s.lfo.step - 1 } :=
  if_neg h

theorem lfoTick_frame (s : State) : s.lfoTick = { s with lfo := s.lfoTick.lfo, voices := s.lfoTick.voices } := by
  by_cases h : s.lfo.step - 1 ≤ 0
  · rw [lfoTick_of_tick h]; rfl
  · rw [lfoTick_of_not_tick h]; rfl

theorem tickVoice_of_active {x : Voice} (h : x.env.isActive = true) :
    s.tickVoice x = s.applyCutoff (s.refreshVoice
      { x with osc1 := { x.osc1 with modulation := s.lfo.vib }, osc2 := { x.osc2 with modulation := s.lfo.vib } }) :=
  if_pos h

theorem tickVoice_of_inactive {x : Voice} (h : ¬ x.env.isActive = true) : s.tickVoice x = x := if_neg h

/-! ## The noise sample (43_lfo_noise.md R296) -/

theorem lcgNext_eq_ofNat (w : Word32) : lcgNext w = BitVec.ofNat 32 ((w.toNat * 196314165 + 907633515) % 2 ^ 32) := by
  refine BitVec.eq_of_toNat_eq ?_
  rw [lcgNext, BitVec.toNat_add, BitVec.toNat_mul, BitVec.toNat_ofNat, Nat.mod_mod, Nat.mod_add_mod]
  rfl

/-- The sample's numerator `(w >> 7) - 2^24` is exact as a binary32 value. -/
theorem noiseSample_exact (w : Word32) :
    ∃ neg e f, noiseSample w = .num neg e f ∧ F32.signed neg e f = ((w.toNat / 128 : Int) - 16777216) * 2 ^ 125 := by
  have hw : w.toNat < 2 ^ 32 := w.isLt
  have ht : ((w >>> 7).toNat : Int) = (w.toNat / 128 : Int) := by
    rw [BitVec.toNat_ushiftRight, Nat.shiftRight_eq_div_pow]; rfl
  rw [noiseSample, ht]
  exact F32.ofInt_div_noiseScale (by omega)

theorem setSeed_setRet_frame (s : State) (w : Word32) (r : RetVal) :
    (s.setSeed w).setRet r =
      { s with seed := ((s.setSeed w).setRet r).seed, ret := ((s.setSeed w).setRet r).ret } := rfl

end Sys2Proof.Machine

/-! ## The obligations -/

namespace Sys2Proof

open Sys2Proof.Machine

/-- Settles O24: at a tick the LFO stored is R291's, and each voice is the ticked one, by whether it is active; else only the
counter is written. -/
theorem lfoTickUpdatesActiveVoices : Obligations.LfoTickUpdatesActiveVoices := by
  intro s
  refine ⟨_, rfl, lfoTick_frame s, ?_⟩
  split
  next htick =>
    rw [lfoTick_of_tick htick]
    refine ⟨rfl, fun v => ?_⟩
    rw [State.voice_mapVoices, State.setLfo_voice]
    dsimp only
    split
    next hactive =>
      rw [tickVoice_of_active hactive]
      refine ⟨rfl, rfl, rfl, rfl, rfl, rfl, rfl, rfl, _, rfl, ?_⟩
      rw [updFilter_filter_same]
      rfl
    next hinactive => exact tickVoice_of_inactive hinactive
  next hcount =>
    rw [lfoTick_of_not_tick hcount]
    exact ⟨rfl, rfl⟩

/-- Settles O25: `t = (seed >> 7) - 2^24` lies in `[-2^24, 2^24 - 1]`, so both `float(t)` and its quotient are exact. -/
theorem noiseNextReturnsExactSample : Obligations.NoiseNextReturnsExactSample := by
  intro s
  obtain ⟨neg, e, f, hsample, hsigned⟩ := noiseSample_exact (lcgNext s.seed)
  have hseed : (lcgNext s.seed).toNat < 2 ^ 32 := (lcgNext s.seed).isLt
  exact ⟨_, rfl, lcgNext_eq_ofNat s.seed,
    ⟨neg, e, f, congrArg RetVal.word hsample, hsigned, by omega, by omega⟩, setSeed_setRet_frame s _ _⟩

end Sys2Proof
end

section
/-! SUPPORT AND OBLIGATIONS O22, O26 TO O28 AND O51: the voice (44_voice.md). First that a quotient of at least 1 rounds to at
least 1 and is clamped to 1, so that the pan position saturates; then the voice's units one after another, the voice after a
release, a reset and a render call; then the statements. -/

namespace Sys2Proof.F32

/-! ## Rounding keeps a lower bound (00_scope.md R10) -/

/-- Rounding works on the magnitude: the sign passes through. -/
theorem round_not (s : Bool) (a b : Nat) : round (!s) a b = neg (round s a b) := by
  unfold round pack ofExpo
  split_ifs <;> rfl

/-- A quotient not below a magnitude rounds to infinity or to a magnitude not below it. -/
theorem round_ge {a b : Nat} (hb : 0 < b) {e : Fin 255} {f : BitVec 23} (h : units e f * b ≤ a) (s : Bool) :
    round s a b = .inf s ∨ ∃ e' f', round s a b = .num s e' f' ∧ units e f ≤ units e' f' := by
  have hq : (signed false e f : ℚ) ≤ (a : ℚ) / b := by
    rw [signed_cast, if_neg Bool.false_ne_true, le_div_iff₀ (Nat.cast_pos.mpr hb)]
    exact_mod_cast h
  have hpos : round false a b = .inf false ∨
      ∃ e' f', round false a b = .num false e' f' ∧ units e f ≤ units e' f' := by
    simpa only [signed, Bool.false_eq_true, if_false, Int.ofNat_le] using roundedFrom_ge (round_spec false a b hb) hq
  cases s with
  | false => exact hpos
  | true =>
    rw [← Bool.not_false, round_not]
    rcases hpos with hr | ⟨e', f', hr, hle⟩
    · exact .inl (by rw [hr]; rfl)
    · exact .inr ⟨e', f', by rw [hr]; rfl, hle⟩

/-! ## Clamping to [-1, 1] (00_scope.md R11) -/

theorem units_one : units 127 0#23 = 2 ^ 149 := by decide +kernel

theorem clamp_unit_inf (s : Bool) : clamp (.inf s) K.minusOne K.one = .num s 127 0 := by
  rw [minusOne_eq, one_eq]
  cases s <;> rfl

/-- A magnitude of at least 1.0 is clamped to 1.0; 1.0 itself passes. -/
theorem clamp_unit_num {e : Fin 255} {f : BitVec 23} (h : 2 ^ 149 ≤ units e f) (s : Bool) :
    clamp (.num s e f) K.minusOne K.one = .num s 127 0 := by
  have hflush : flush (.num s e f) = .num s e f := flush_of_normal_units (le_trans (by decide) h)
  have hone : ∀ t, flush (.num t 127 0) = .num t 127 0 := fun _ => rfl
  rw [minusOne_eq, one_eq, clamp, gt, lt, lt, hflush, hone, hone]
  rw [← units_one] at h
  rcases h.eq_or_lt with heq | hlt
  · obtain ⟨rfl, rfl⟩ := units_inj heq
    cases s <;> rfl
  · cases s with
    | false =>
      have hnotBelow : ¬ ltExact (.num false e f) (.num true 127 0) = true := by simp [ltExact, signed]
      have habove : ltExact (.num false 127 0) (.num false e f) = true := by simpa [ltExact, signed] using hlt
      rw [if_neg hnotBelow, if_pos habove]
    | true =>
      have hbelow : ltExact (.num true e f) (.num true 127 0) = true := by simpa [ltExact, signed] using hlt
      rw [if_pos hbelow]

end Sys2Proof.F32

namespace Sys2Proof.Machine

/-! ## The pan position (44_voice.md R312) -/

theorem twentyFour_eq : K.twentyFour = .num false 131 0x400000 := by decide +kernel

theorem units_twentyFour : F32.units 131 0x400000 = 24 * 2 ^ 149 := by decide +kernel

/-- `float(i) ⊘ 24.0`, where `float(i)` is exact: the quotient of the magnitudes, rounded with the sign of `i`. -/
theorem ofInt_div_twentyFour {i : Int} {e : Fin 255} {f : BitVec 23} (hu : F32.units e f = i.natAbs * 2 ^ 149) :
    (F32.ofInt i).div K.twentyFour =
      (F32.round (decide (i < 0)) (F32.units e f * 2 ^ 149) (24 * 2 ^ 149)).flush := by
  rw [F32.ofInt, F32.round_whole hu, twentyFour_eq, F32.div, F32.flush_of_units_multiple (by decide) hu,
    F32.flush_of_units_multiple (by decide) units_twentyFour, F32.divExact, units_twentyFour,
    if_neg (by decide), Bool.xor_false]

/-- From 24 semitones on the quotient is at least 1 in magnitude, so the clamp gives ±1, by the side of note 60. -/
theorem panPosition_saturated {note : Int} (hfar : 24 ≤ (note - 60).natAbs) (hexact : (note - 60).natAbs ≤ 2 ^ 24) :
    panPosition note = .num (decide (note - 60 < 0)) 127 0 := by
  obtain ⟨e, f, hu⟩ := F32.exists_units 149 _ hexact (by decide)
  rw [panPosition, ofInt_div_twentyFour hu]
  have hone : F32.units 127 0#23 * (24 * 2 ^ 149) ≤ F32.units e f * 2 ^ 149 := by
    rw [F32.units_one, hu]
    omega
  rcases F32.round_ge (by decide) hone (decide (note - 60 < 0)) with hr | ⟨e', f', hr, hle⟩
  · rw [hr, F32.flush_inf, F32.clamp_unit_inf]
  · rw [F32.units_one] at hle
    rw [hr, F32.flush_of_normal_units (le_trans (by decide) hle), F32.clamp_unit_num hle]

theorem panPosition_below {note : Int} (hlo : -1 ≤ note) (hhi : note ≤ 36) : panPosition note = K.minusOne := by
  rw [panPosition_saturated (by omega) (by omega), decide_eq_true (by omega), F32.minusOne_eq]

theorem panPosition_above {note : Int} (hlo : 84 ≤ note) (hhi : note ≤ 127) : panPosition note = K.one := by
  rw [panPosition_saturated (by omega) (by omega), decide_eq_false (by omega), F32.one_eq]

theorem panPosition_centre : panPosition 60 = K.zero := by decide +kernel

/-! ### The gains at the two ends and at the centre -/

theorem voiceUpdate_gains_minusOne {x : Voice} (h : panPosition x.note = K.minusOne) :
    x.voiceUpdate.panLeft = (K.piOver4.mul K.two).sin ∧ x.voiceUpdate.panRight = K.zero.sin := by
  have hleft : K.one.sub K.minusOne = K.two := by decide +kernel
  have hright : K.piOver4.mul (K.one.add K.minusOne) = K.zero := by decide +kernel
  simp only [Voice.voiceUpdate, h, hleft, hright, and_self]

theorem voiceUpdate_gains_one {x : Voice} (h : panPosition x.note = K.one) :
    x.voiceUpdate.panLeft = K.zero.sin ∧ x.voiceUpdate.panRight = (K.piOver4.mul K.two).sin := by
  have hleft : K.piOver4.mul (K.one.sub K.one) = K.zero := by decide +kernel
  have hright : K.one.add K.one = K.two := by decide +kernel
  simp only [Voice.voiceUpdate, h, hleft, hright, and_self]

theorem voiceUpdate_gains_zero {x : Voice} (h : panPosition x.note = K.zero) :
    x.voiceUpdate.panLeft = K.piOver4.sin ∧ x.voiceUpdate.panRight = K.piOver4.sin := by
  have hleft : K.piOver4.mul (K.one.sub K.zero) = K.piOver4 := by decide +kernel
  have hright : K.piOver4.mul (K.one.add K.zero) = K.piOver4 := by decide +kernel
  simp only [Voice.voiceUpdate, h, hleft, hright, and_self]

/-! ## The units of one voice, one after another (44_voice.md R311) -/

/-- What rendering a voice or a unit of it stores: the voice, the sticky flag, the returned word. -/
def State.putVoice (s : State) (v : VoiceIdx) (x : Voice) (low : Bool) (out : F32) : State :=
  ((s.setVoice v x).raisePeriodLow low).setRet (.word out)

variable (s : State) (v : VoiceIdx)

theorem execOscRender_eq_putVoice (o : OscId) :
    execOscRender v o s =
      .next (s.putVoice v ((s.voice v).setOsc o ((s.voice v).osc o).oscRender.osc) ((s.voice v).osc o).oscRender.low
        ((s.voice v).osc o).oscRender.out) := rfl

theorem execVoiceRender_eq_putVoice (xIn : F32) :
    execVoiceRender v xIn s =
      .next (s.putVoice v ((s.voice v).voiceRender xIn).voice ((s.voice v).voiceRender xIn).low
        ((s.voice v).voiceRender xIn).out) := rfl

variable (x : Voice) (low : Bool) (out : F32)

@[simp] theorem putVoice_voice_same : (s.putVoice v x low out).voice v = x := State.voice_setVoice_same s v x

theorem setVoice_putVoice (y : Voice) : (s.putVoice v x low out).setVoice v y = s.putVoice v y low out :=
  congrArg (fun t => (t.raisePeriodLow low).setRet (.word out)) (State.setVoice_setVoice s v x y)

theorem putVoice_putVoice (y : Voice) (low' : Bool) (out' : F32) :
    (s.putVoice v x low out).putVoice v y low' out' = s.putVoice v y (low || low') out' := by
  rw [State.putVoice, setVoice_putVoice, State.putVoice, State.putVoice]
  simp [State.raisePeriodLow, State.setRet, Bool.or_assoc]

theorem execOscRender_putVoice (o : OscId) :
    execOscRender v o (s.putVoice v x low out) =
      .next (s.putVoice v (x.setOsc o (x.osc o).oscRender.osc) (low || (x.osc o).oscRender.low)
        (x.osc o).oscRender.out) := by
  rw [execOscRender_eq_putVoice, putVoice_voice_same, putVoice_putVoice]

theorem execFilterRender_putVoice (y : F32) :
    execFilterRender v y (s.putVoice v x low out) =
      .next (s.putVoice v (x.setFilter (x.filter.filterRender y).filter) low (x.filter.filterRender y).out) := by
  simp only [execFilterRender, State.updFilter, putVoice_voice_same, setVoice_putVoice]
  rfl

theorem execNextValue_putVoice :
    execNextValue v (s.putVoice v x low out) =
      .next (s.putVoice v (x.setEnv x.env.nextValue) low x.env.stepLevel) := by
  simp only [execNextValue, State.updEnv, putVoice_voice_same, setVoice_putVoice]
  rfl

/-! ## The voice after a release, a reset and a render call (44_voice.md R313 to R315) -/

theorem release_release (e : Env) : e.release.release = e.release := rfl

theorem isInAttack_release (e : Env) : e.release.isInAttack = false := isInAttack_envReset e

theorem reclaimVoice_of_inactive {x : Voice} (h : x.env.isActive = false) :
    reclaimVoice x = (x.setEnv x.env.envReset).setFilter x.filter.filterReset := if_neg (Bool.eq_false_iff.mp h)

/-- The loop of a render call keeps a voice that is inactive at its start, so the reclaim finds it inactive. -/
theorem render_voice_of_inactive {s : State} {v : VoiceIdx} (h : (s.voice v).env.isActive = false) (n : Nat) :
    (s.render n).voice v = ((s.voice v).setEnv (s.voice v).env.envReset).setFilter (s.voice v).filter.filterReset := by
  rw [render_voice, ((renderKept_loop s n).voice v).inactive h, reclaimVoice_of_inactive h]

end Sys2Proof.Machine

/-! ## The obligations -/

namespace Sys2Proof

open Sys2Proof.Machine Sys2Proof.Safety

/-- Settles O26: each unit works on the voice that the unit before it stored, where its own registers are still those of
the start. -/
theorem voiceRenderRunsItsUnitsInOrder : Obligations.VoiceRenderRunsItsUnitsInOrder := by
  intro s v xIn
  exact ⟨_, _, _, _, _, execOscRender_eq_putVoice s v .osc1, execOscRender_putVoice s v _ _ _ .osc2,
    execFilterRender_putVoice s v _ _ _ _, execNextValue_putVoice s v _ _ _, execVoiceRender_eq_putVoice s v xIn, rfl⟩

/-- Settles O27: the voice stored is R312's, and its gains are those of the position -1, 1 or 0. -/
theorem voiceUpdateSaturatesPan : Obligations.VoiceUpdateSaturatesPan := by
  intro s v
  refine ⟨_, rfl, voiceFrame_setVoice s v _, ?_⟩
  rw [State.voice_setVoice_same]
  exact ⟨rfl, fun hlo hhi => voiceUpdate_gains_minusOne (panPosition_below hlo hhi),
    fun hlo hhi => voiceUpdate_gains_one (panPosition_above hlo hhi),
    fun hnote => voiceUpdate_gains_zero (hnote ▸ panPosition_centre)⟩

/-- Settles O51: the loop keeps the voice whole and the reclaim zeroes the registers the statement names. -/
theorem inactiveVoiceIsFrozen : Obligations.InactiveVoiceIsFrozen :=
  fun s n _ hready hinactive => ⟨s.render n, execHostRender_ready hready n, render_voice_of_inactive hinactive n⟩

/-- Settles O22: voiceNoteOff stores the released envelope, as release does; the target 0.0 is not an attack's. -/
theorem releaseKeepsTheLevel : Obligations.ReleaseKeepsTheLevel := by
  intro s v
  have henv := updEnv_env_same s v Env.release
  refine ⟨_, _, _, rfl, rfl, envFrame_updEnv s v Env.release, rfl, henv, rfl, ?_,
    execIsInAttack_updEnv s v Env.release, ?_⟩
  · rw [updEnv_env_same, henv, release_release]
  · rw [State.setRet_ret, isInAttack_release]

/-- Settles O28: the voice stored is R315's, and its envelope is the reset one. -/
theorem voiceResetIdlesTheSlot : Obligations.VoiceResetIdlesTheSlot := by
  intro s v
  have hvoice := State.voice_setVoice_same s v (s.voice v).voiceReset
  refine ⟨_, _, _, rfl, voiceFrame_setVoice s v _, hvoice, rfl, ?_, rfl, ?_⟩
  · rw [State.setRet_ret, hvoice]
    exact congrArg RetVal.flag (isActive_envReset (s.voice v).env)
  · rw [State.setRet_ret, hvoice]
    exact congrArg RetVal.flag (isInAttack_envReset (s.voice v).env)

end Sys2Proof
end

section
/-! SUPPORT AND OBLIGATIONS O29 TO O33: the voice search, the period and the note start (45_engine_midi.md R336 to R342).
First the order of binary32 values and what a doubled value settles at, then the search as an invariant of its scan, the
doubling loop and the start of a slot, then the statements. -/

namespace Sys2Proof.F32

open Sys2Proof.Safety

/-! ## The strict order (00_scope.md R11) -/

protected theorem lt_trans {x y z : F32} (hxy : lt x y = true) (hyz : lt y z = true) : lt x z = true := by
  obtain ⟨hx, -, hkey⟩ := (lt_iff_key x y).mp hxy
  obtain ⟨-, hz, hkey'⟩ := (lt_iff_key y z).mp hyz
  exact (lt_iff_key x z).mpr ⟨hx, hz, hkey.trans hkey'⟩

protected theorem lt_asymm {x y : F32} (h : lt x y = true) : lt y x = false := by
  obtain ⟨-, -, hkey⟩ := (lt_iff_key x y).mp h
  rw [Bool.eq_false_iff, ne_eq, lt_iff_key]
  exact fun h' => h'.2.2.not_gt hkey

theorem isNaN_of_lt {x y : F32} (h : lt x y = true) : isNaN x = false := ((lt_iff_key x y).mp h).1

/-- Below `y`, so below any number that is not itself below `y`. -/
theorem lt_of_lt_of_not_lt {x y z : F32} (hxy : lt x y = true) (hz : isNaN z = false) (hzy : lt z y = false) :
    lt x z = true := by
  obtain ⟨hx, hy, hkey⟩ := (lt_iff_key x y).mp hxy
  rw [Bool.eq_false_iff, ne_eq, lt_iff_key] at hzy
  have hle : key y ≤ key z := not_lt.mp fun hlt => hzy ⟨hz, hy, hlt⟩
  exact (lt_iff_key x z).mpr ⟨hx, hz, hkey.trans_le hle⟩

/-! ## Where doubling settles (45_engine_midi.md R339) -/

/-- What enough doublings make of a value: a finite one that is no zero becomes the infinity of its sign. -/
def settled : F32 → F32
  | .nan => .nan
  | .inf s => .inf s
  | .num s e f => if units e f = 0 then .num s e f else .inf s

theorem doubledTimes_add_self (p : F32) (k : Nat) : doubledTimes (p.add p) k = doubledTimes p (k + 1) := by
  induction k with
  | zero => rfl
  | succ k ih =>
    rw [doubledTimes, ih]
    rfl

theorem doubledTimes_of_fixed {p : F32} (h : p.add p = p) (k : Nat) : doubledTimes p k = p := by
  induction k with
  | zero => rfl
  | succ k ih => rw [doubledTimes, ih, h]

theorem flush_doubledTimes {p : F32} (h : flush p = p) (k : Nat) : flush (doubledTimes p k) = doubledTimes p k := by
  cases k with
  | zero => exact h
  | succ k => exact flush_add _ _

/-- A finite value doubled `k` times has `2^k` times its magnitude, or has overflowed. -/
theorem doubledTimes_num {s : Bool} {e : Fin 255} {f : BitVec 23} (h : flush (.num s e f) = .num s e f) (k : Nat) :
    doubledTimes (.num s e f) k = .inf s ∨
      ∃ e' f', doubledTimes (.num s e f) k = .num s e' f' ∧ units e' f' = 2 ^ k * units e f := by
  induction k with
  | zero => exact .inr ⟨e, f, rfl, (Nat.one_mul _).symm⟩
  | succ k ih =>
    have hstable := flush_doubledTimes h k
    rw [doubledTimes]
    rcases ih with hinf | ⟨e', f', hnum, hunits⟩
    · exact .inl (by rw [hinf, add_inf_self])
    · rw [hnum] at hstable ⊢
      rcases add_self s e' f' hstable with hinf | ⟨e'', f'', hnum', hunits'⟩
      · exact .inl hinf
      · exact .inr ⟨e'', f'', hnum', by rw [hunits', hunits, Nat.pow_succ']; ring⟩

/-- Every finite magnitude is below `2^277`, so 277 doublings settle a value. -/
theorem doubledTimes_eq_settled {p : F32} (h : flush p = p) {k : Nat} (hk : 277 ≤ k) : doubledTimes p k = p.settled := by
  cases p with
  | nan => exact doubledTimes_of_fixed rfl k
  | inf s => exact doubledTimes_of_fixed (add_inf_self s) k
  | num s e f =>
    by_cases hzero : units e f = 0
    · rw [settled, if_pos hzero]
      obtain ⟨he, hf⟩ := (units_zero_iff e f).mp hzero
      obtain rfl : e = 0 := Fin.ext he
      obtain rfl : f = 0 := hf
      exact doubledTimes_of_fixed (add_zero_self s) k
    · rw [settled, if_neg hzero]
      rcases doubledTimes_num h k with hinf | ⟨e', f', -, hunits⟩
      · exact hinf
      · have hge : 2 ^ k ≤ units e' f' := hunits ▸ Nat.le_mul_of_pos_right _ (Nat.pos_of_ne_zero hzero)
        exact absurd (Nat.pow_lt_pow_iff_right (by decide) |>.mp (hge.trans_lt (units_lt e' f'))) (not_lt.mpr hk)

/-- A value that is not at most 0.0 settles at +infinity, or it is the NaN. -/
theorem settled_of_not_le_zero {p : F32} (hflush : flush p = p) (h : le p K.zero = false) :
    p.settled = .nan ∨ p.settled = .inf false := by
  rw [le, hflush, zero_eq, flush_zero] at h
  cases p with
  | nan => exact .inl rfl
  | inf s =>
    cases s with
    | false => exact .inr rfl
    | true => cases h
  | num s e f =>
    have hpos : 0 < signed s e f := not_le.mp (of_decide_eq_false h)
    have hne : units e f ≠ 0 := fun h0 => hpos.ne' ((signed_eq_zero_iff s e f).mpr h0)
    cases s with
    | false => exact .inr (if_neg hne)
    | true => exact absurd hpos (by simp [signed])

/-- Nothing is above +infinity. -/
theorem lt_posInf_left (y : F32) : lt (.inf false) y = false := by
  unfold lt
  cases flush y <;> rfl

/-- +infinity times a value that is not negative. -/
theorem posInf_mul {y : F32} (h : lt y K.zero = false) : mul (.inf false) y = .nan ∨ mul (.inf false) y = .inf false := by
  rw [lt, zero_eq, flush_zero] at h
  rw [mul, flush_inf]
  cases hy : flush y with
  | nan => exact .inl rfl
  | inf s =>
    rw [hy] at h
    cases s with
    | false => exact .inr rfl
    | true => cases h
  | num s e f =>
    rw [hy] at h
    rw [mulExact]
    split
    case isTrue => exact .inl rfl
    case isFalse hne =>
      have hnonneg : 0 ≤ signed s e f := not_lt.mp (of_decide_eq_false h)
      cases s with
      | false => exact .inr rfl
      | true => exact absurd hnonneg (by simp [signed]; omega)

end Sys2Proof.F32

namespace Sys2Proof.Machine

open Sys2Proof.Safety

/-! ## The voice search (45_engine_midi.md R336) -/

/-- What the scan has found when it has `seen` some slots: no candidate yet, so it holds its start values; or the candidate of
the lowest level, the first of equal ones. -/
inductive SearchFound (s : State) (seen : List VoiceIdx) : VoiceIdx × F32 → Prop where
  | nothing (h : ∀ i ∈ seen, ¬ Candidate s i) : SearchFound s seen (0, K.searchStart)
  | best (b : VoiceIdx) (hseen : b ∈ seen) (hb : Candidate s b)
      (hmin : ∀ i ∈ seen, Candidate s i →
        (s.voice i).env.level.lt (s.voice b).env.level = false ∧
          (i < b → (s.voice b).env.level.lt (s.voice i).env.level = true)) :
      SearchFound s seen (b, (s.voice b).env.level)

variable {s : State} {seen : List VoiceIdx} {best : VoiceIdx × F32}

/-- The level to beat is at most the start level. -/
theorem SearchFound.candidate_of_lt (h : SearchFound s seen best) {i : VoiceIdx}
    (hlt : (s.voice i).env.level.lt best.2 = true) (hattack : (s.voice i).env.isInAttack = false) : Candidate s i := by
  cases h with
  | nothing => exact ⟨hlt, hattack⟩
  | best b hseen hb => exact ⟨F32.lt_trans hlt hb.1, hattack⟩

/-- A level below the one to beat is below those of all candidates seen. -/
theorem SearchFound.lt_seen (h : SearchFound s seen best) {i j : VoiceIdx}
    (hlt : (s.voice i).env.level.lt best.2 = true) (hj : j ∈ seen) (hcand : Candidate s j) :
    (s.voice i).env.level.lt (s.voice j).env.level = true := by
  cases h with
  | nothing h => exact absurd hcand (h j hj)
  | best b hseen hb hmin => exact F32.lt_of_lt_of_not_lt hlt (F32.isNaN_of_lt hcand.1) (hmin j hj hcand).1

/-- One slot more, of a greater index. -/
theorem SearchFound.searchStep (h : SearchFound s seen best) {i : VoiceIdx} (hi : ∀ j ∈ seen, j < i) :
    SearchFound s (seen ++ [i]) (s.searchStep best i) := by
  unfold State.searchStep
  split
  case isTrue hbetter =>
    simp only [Bool.and_eq_true, Bool.not_eq_true'] at hbetter
    obtain ⟨hlt, hattack⟩ := hbetter
    refine .best i (by simp) (h.candidate_of_lt hlt hattack) (List.forall_mem_append.mpr ⟨fun j hj hcand => ?_, ?_⟩)
    · have hless := h.lt_seen hlt hj hcand
      exact ⟨F32.lt_asymm hless, fun _ => hless⟩
    · exact List.forall_mem_singleton.mpr fun _ => ⟨F32.lt_irrefl _, fun hself => absurd hself (lt_irrefl i)⟩
  case isFalse hworse =>
    have hnot : Candidate s i → (s.voice i).env.level.lt best.2 = false := fun hcand =>
      Bool.eq_false_iff.mpr fun hlt => hworse (by simp [hlt, show (s.voice i).env.isInAttack = false from hcand.2])
    cases h with
    | nothing h =>
      refine .nothing (List.forall_mem_append.mpr ⟨h, List.forall_mem_singleton.mpr ?_⟩)
      exact fun hcand => Bool.false_ne_true ((hnot hcand).symm.trans hcand.1)
    | best b hseen hb hmin =>
      refine .best b (by simp [hseen]) hb (List.forall_mem_append.mpr ⟨hmin, List.forall_mem_singleton.mpr ?_⟩)
      exact fun hcand => ⟨hnot hcand, fun hib => absurd hib (hi b hseen).not_gt⟩

theorem SearchFound.foldl (slots : List VoiceIdx) (h : SearchFound s seen best)
    (hsorted : (seen ++ slots).Pairwise (· < ·)) : SearchFound s (seen ++ slots) (slots.foldl s.searchStep best) := by
  induction slots generalizing seen best with
  | nil => simpa using h
  | cons i slots ih =>
    have hi : ∀ j ∈ seen, j < i := fun j hj => (List.pairwise_append.mp hsorted).2.2 j hj i (by simp)
    rw [List.append_cons] at hsorted ⊢
    exact ih (h.searchStep hi) hsorted

/-- What the whole scan finds. -/
theorem searchFound_findFreeVoice (s : State) : ∃ level, SearchFound s voiceOrder (s.findFreeVoice, level) :=
  ⟨_, SearchFound.foldl (seen := []) voiceOrder (.nothing (by simp)) (by decide)⟩

theorem mem_voiceOrder (v : VoiceIdx) : v ∈ voiceOrder := by
  revert v
  decide

/-! ## The doubling loop (45_engine_midi.md R339) -/

/-- What the loop answers: the first doubling that is not too short, or nothing where the fuel allows none. -/
theorem doublePeriod_cases (d p : F32) (fuel : Nat) :
    (∃ k, doublePeriod d fuel p = some (doubledTimes p k) ∧ periodTooShort d (doubledTimes p k) = false ∧
        ∀ j < k, periodTooShort d (doubledTimes p j) = true) ∨
      (doublePeriod d fuel p = none ∧ ∀ j < fuel + 1, periodTooShort d (doubledTimes p j) = true) := by
  induction fuel generalizing p with
  | zero =>
    unfold doublePeriod
    cases hshort : periodTooShort d p with
    | false => exact .inl ⟨0, rfl, hshort, by simp⟩
    | true => exact .inr ⟨rfl, Nat.forall_lt_succ_left.mpr ⟨hshort, by simp⟩⟩
  | succ fuel ih =>
    unfold doublePeriod
    cases hshort : periodTooShort d p with
    | false => exact .inl ⟨0, rfl, hshort, by simp⟩
    | true =>
      have hrest := ih (p.add p)
      simp only [F32.doubledTimes_add_self] at hrest
      rcases hrest with ⟨k, hk, hlong, hbefore⟩ | ⟨hnone, hall⟩
      · exact .inl ⟨k + 1, hk, hlong, Nat.forall_lt_succ_left.mpr ⟨hshort, hbefore⟩⟩
      · exact .inr ⟨hnone, Nat.forall_lt_succ_left.mpr ⟨hshort, hall⟩⟩

theorem flush_basePeriod (s : State) (v : VoiceIdx) (note : Nat) : (s.basePeriod v note).flush = s.basePeriod v note :=
  F32.flush_mul _ _

/-- What calcPeriod answers: the first doubling of the base period that is not too short, or nothing where there is none; once
the fuel is used up the period has settled. -/
theorem calcPeriod_cases (s : State) (v : VoiceIdx) (note : Nat) :
    (∃ k, s.calcPeriod v note = some (doubledTimes (s.basePeriod v note) k) ∧
        periodTooShort s.detuneEff (doubledTimes (s.basePeriod v note) k) = false ∧
        ∀ j < k, periodTooShort s.detuneEff (doubledTimes (s.basePeriod v note) j) = true) ∨
      (s.calcPeriod v note = none ∧ ∀ k, periodTooShort s.detuneEff (doubledTimes (s.basePeriod v note) k) = true) := by
  refine (doublePeriod_cases s.detuneEff (s.basePeriod v note) Config.doublingFuel).imp_right ?_
  rintro ⟨hnone, hall⟩
  refine ⟨hnone, fun k => ?_⟩
  have hsettled : ∀ {j}, 277 ≤ j → doubledTimes (s.basePeriod v note) j = (s.basePeriod v note).settled :=
    F32.doubledTimes_eq_settled (flush_basePeriod s v note)
  rcases Nat.le_total k Config.doublingFuel with hk | hk
  · exact hall k (Nat.lt_succ_of_le hk)
  · have hfuel : 277 ≤ Config.doublingFuel := by decide
    rw [hsettled (hfuel.trans hk), ← hsettled hfuel]
    exact hall _ (Nat.lt_succ_self _)

/-- Where a period settles when the base is not at most 0.0, it is long enough for every ratio that is not negative. -/
theorem periodTooShort_settled {d p : F32} (hflush : p.flush = p) (hp : p.le K.zero = false) (hd : d.lt K.zero = false) :
    periodTooShort d p.settled = false := by
  rcases F32.settled_of_not_le_zero hflush hp with h | h
  · rw [h]
    rfl
  · rw [h, periodTooShort, F32.lt_posInf_left, Bool.false_or]
    rcases F32.posInf_mul hd with hmul | hmul
    · rw [hmul, F32.lt_nan_left]
    · rw [hmul, F32.lt_posInf_left]

/-- calcPeriod completes unless the base period is zero or negative or the detune ratio negative. -/
theorem exists_calcPeriod {s : State} {v : VoiceIdx} {note : Nat} (hbase : (s.basePeriod v note).le K.zero = false)
    (hdetune : s.detuneEff.lt K.zero = false) :
    ∃ p, s.calcPeriod v note = some p ∧ periodTooShort s.detuneEff p = false := by
  rcases calcPeriod_cases s v note with ⟨k, hk, hlong, -⟩ | ⟨-, hall⟩
  · exact ⟨_, hk, hlong⟩
  · have hshort := hall 277
    rw [F32.doubledTimes_eq_settled (flush_basePeriod s v note) le_rfl,
      periodTooShort_settled (flush_basePeriod s v note) hbase hdetune] at hshort
    cases hshort

theorem periodTooShort_iff {d p : F32} :
    periodTooShort d p = true ↔ p.lt K.six = true ∨ (p.mul d).lt K.six = true := by
  rw [periodTooShort, Bool.or_eq_true]

/-! ## The period and the start of a slot, by what calcPeriod gives (45_engine_midi.md R339, R341) -/

variable {v : VoiceIdx} {note : Nat} {p : F32}

theorem execCalcPeriod_of_some (h : s.calcPeriod v note = some p) :
    execCalcPeriod v note s = .next (s.setRet (.word p)) := by
  rw [execCalcPeriod, h]

theorem execCalcPeriod_of_none (h : s.calcPeriod v note = none) :
    execCalcPeriod v note s = .fault .periodLoopDiverges := by
  rw [execCalcPeriod, h]

theorem startVoice_of_some (h : s.calcPeriod v note = some p) (velocity : Nat) :
    s.startVoice v note velocity = .next (s.setVoice v (s.startedVoice (s.voice v) p note velocity)) := by
  rw [State.startVoice, h]

theorem startVoice_of_none (h : s.calcPeriod v note = none) (velocity : Nat) :
    s.startVoice v note velocity = .fault .periodLoopDiverges := by
  rw [State.startVoice, h]

/-- startVoice completes and changes its slot alone wherever calcPeriod completes. -/
theorem exists_startVoice (h : s.calcPeriod v note = some p) (velocity : Nat) :
    ∃ t, s.startVoice v note velocity = .next t ∧ VoiceFrame v s t :=
  ⟨_, startVoice_of_some h velocity, voiceFrame_setVoice s v _⟩

theorem velocityGain_eq (velocity : Nat) :
    velocityGain velocity = (K.fourThousandths.mul (F32.ofInt ((velocity + 64) * (velocity + 64)))).sub K.eight := by
  rw [velocityGain]
  push_cast
  rfl

/-- The lock of a slot that has just been written. -/
theorem exists_execSquareWave (x : Voice) (newPeriod : F32) :
    ∃ u, execSquareWave v newPeriod (s.setVoice v x) = .next u ∧ x.osc2.squareWave x.osc1 newPeriod = (u.voice v).osc2 :=
  ⟨_, rfl, by simp [Voice.setOsc]⟩

/-- The lock writes the second oscillator alone. -/
theorem lockVoice_eq (x : Voice) : s.lockVoice x = { x with osc2 := (s.lockVoice x).osc2 } := by
  unfold State.lockVoice
  split <;> rfl

/-- A started slot is the loaded one with its second oscillator locked, its cutoff applied and its envelope in attack. -/
theorem startedVoice_eq (x : Voice) (velocity : Nat) :
    s.startedVoice x p note velocity =
      { s.loadVoice x p note velocity with
        osc2 := (s.lockVoice (s.loadVoice x p note velocity)).osc2
        filter := x.filter.updateCoefficients s.engine.sampleRate s.cutoffEff s.filterQ
        env := s.loadEnvelope x.env } := by
  rw [State.startedVoice, lockVoice_eq]
  rfl

theorem lockVoice_of_square (h : s.isSquare = true) (x : Voice) :
    s.lockVoice x = { x with osc2 := x.osc2.squareWave x.osc1 x.period } := if_pos h

theorem lockVoice_of_not_square (h : ¬ s.isSquare = true) (x : Voice) :
    s.lockVoice x = { x with osc2 := { x.osc2 with polarity := K.one } } := if_neg h

/-! ## Which messages complete (45_engine_midi.md R330 to R335, 46_host_render.md R374) -/

theorem exec_midiNoteOn_ready (h : s.engine.ready = true) (c : Nibble) (d1 d2 : Data7) :
    exec (.midiNoteOn c d1 d2) s = s.noteOn (noteOf d1) (velocityOf d2) := if_pos h

/-- Every row but NOTE_ON completes: refused, or what it runs has a next state. -/
theorem exec_row_completes {i : Instr} {m : List Byte} (hrow : encode i = some m) (hi : ∀ c d1 d2, i ≠ .midiNoteOn c d1 d2)
    (s : State) : ∃ t, exec i s = .next t := by
  cases hready : s.engine.ready with
  | false => exact ⟨_, exec_row_notReady hready hrow⟩
  | true =>
    cases i
    case midiNoteOn c d1 d2 => exact absurd rfl (hi c d1 d2)
    case midiIgnData | midiNoteOff | midiNoteOnV0 | midiIgnPolyPressure | midiCcSustain | midiCcPanic | midiCcOther
        | midiIgnProgram | midiIgnChannelPressure | midiPitchBend | midiIgnSystem =>
      exact ⟨_, if_pos hready⟩
    all_goals cases hrow

/-- The note of a NOTE_ON word is its field `d1`. -/
theorem d1_of_decodeWord_noteOn {w : CmdWord} {c : Nibble} {d1 d2 : Data7} (h : decodeWord w = .midiNoteOn c d1 d2) :
    d1 = w.d1 := by
  unfold decodeWord at h
  cases hrow : rowOf w <;> rw [hrow] at h <;> cases h
  rfl

/-- The field `d1` of a message's word is the low seven bits of its second byte, which is read as 0 where it is missing. -/
theorem d1_of_wordOfMessage {bytes : List Byte} {w : CmdWord} (h : wordOfMessage bytes = .ok w) :
    w.d1.toNat = (bytes.getD 1 0).toNat % 128 := by
  have hfield : ∀ b0 b1 b2 : Byte, (cmdWord b0 b1 b2).d1.toNat = b1.toNat % 128 := fun b0 b1 b2 => by
    have hlt := b2.isLt
    rw [CmdWord.d1_toNat, cmdWord_toNat]
    omega
  match bytes with
  | [] => cases h
  | [b0] => cases h; exact hfield b0 0 0
  | [b0, b1] => cases h; exact hfield b0 b1 0
  | [b0, b1, b2] => cases h; exact hfield b0 b1 b2
  | _ :: _ :: _ :: _ :: _ => cases h

/-- A message completes where the note-on of its second byte does. -/
theorem execHostMidi_completes {bytes : List Byte}
    (h : ∀ velocity, ∃ t, s.noteOn ((bytes.getD 1 0).toNat % 128) velocity = .next t) :
    ∃ t, execHostMidi bytes s = .next t := by
  rcases execHostMidi_cases bytes s with ⟨-, e⟩ | ⟨-, -, e⟩ | ⟨hready, w, hw, e⟩
  · exact ⟨_, e⟩
  · exact ⟨_, e⟩
  · rw [e]
    by_cases hon : ∃ c d1 d2, decodeWord w = .midiNoteOn c d1 d2
    · obtain ⟨c, d1, d2, hi⟩ := hon
      rw [hi, exec_midiNoteOn_ready hready, noteOf, d1_of_decodeWord_noteOn hi, d1_of_wordOfMessage hw]
      exact h (velocityOf d2)
    · obtain ⟨m, hrow⟩ := Option.isSome_iff_exists.mp (encode_decodeWord_isSome w)
      exact exec_row_completes hrow (fun c d1 d2 hi => hon ⟨c, d1, d2, hi⟩) s

end Sys2Proof.Machine

/-! ## The obligations -/

namespace Sys2Proof

open Sys2Proof.Machine Sys2Proof.Safety

/-- Settles O29: the two things the scan of all slots can have found. -/
theorem findFreeVoiceTakesLowestCandidate : Obligations.FindFreeVoiceTakesLowestCandidate := by
  intro s
  obtain ⟨level, hfound⟩ := searchFound_findFreeVoice s
  refine ⟨s.findFreeVoice, rfl, ?_⟩
  generalize s.findFreeVoice = v at hfound
  cases hfound with
  | nothing hnone =>
    have hno : ∀ i, ¬ Candidate s i := fun i => hnone i (mem_voiceOrder i)
    exact ⟨fun ⟨i, hi⟩ => absurd hi (hno i), fun _ => rfl⟩
  | best v _ hv hmin => exact ⟨fun _ => ⟨hv, fun i => hmin i (mem_voiceOrder i)⟩, fun hno => absurd hv (hno v)⟩

/-- Settles O30: the first doubling that is not too short is the only first one; where there is none the loop has no answer,
and the value at which a base not at most 0.0 settles is one. -/
theorem calcPeriodDoublesUntilLongEnough : Obligations.CalcPeriodDoublesUntilLongEnough := by
  intro s v note detuneEff x base short
  have hshort : ∀ p, periodTooShort s.detuneEff p = true ↔ short p := fun p => periodTooShort_iff
  have hlong : ∀ p, periodTooShort s.detuneEff p = false ↔ ¬ short p := fun p => by
    rw [← hshort, Bool.not_eq_true]
  have hcases := calcPeriod_cases s v note
  simp only [hshort, hlong] at hcases
  refine ⟨fun k hk hbefore => ?_, fun hall => ?_, fun hbase hdetune => ?_⟩
  · rcases hcases with ⟨k', hperiod, hk', hbefore'⟩ | ⟨-, hall⟩
    · obtain rfl : k = k' :=
        le_antisymm (not_lt.mp fun hlt => hk' (hbefore k' hlt)) (not_lt.mp fun hlt => hk (hbefore' k hlt))
      exact execCalcPeriod_of_some hperiod
    · exact absurd (hall k) hk
  · rcases hcases with ⟨k, -, hk, -⟩ | ⟨hnone, -⟩
    · exact absurd (hall k) hk
    · exact execCalcPeriod_of_none hnone
  · obtain ⟨p, hperiod, hp⟩ := exists_calcPeriod (v := v) (note := note) hbase hdetune
    exact ⟨p, execCalcPeriod_of_some hperiod, (hlong p).mp hp⟩

/-- Settles O31: what calcPeriod answers decides between the fault and the started slot, whose registers are R341's, by the
lock of the second oscillator in SQUARE mode or not. -/
theorem startVoiceLoadsTheSlot : Obligations.StartVoiceLoadsTheSlot := by
  intro s v note velocity
  cases hperiod : s.calcPeriod v note with
  | none =>
    have hfault := execCalcPeriod_of_none hperiod
    exact ⟨fun _ => startVoice_of_none hperiod velocity, fun c hc => by cases hfault.symm.trans hc⟩
  | some p =>
    have hnext := execCalcPeriod_of_some hperiod
    refine ⟨fun hfault => by (cases hnext.symm.trans hfault), fun c hc => ?_⟩
    cases hnext.symm.trans hc
    refine ⟨_, startVoice_of_some hperiod velocity, voiceFrame_setVoice s v _, ?_⟩
    rw [State.voice_setVoice_same, startedVoice_eq, ← velocityGain_eq]
    refine ⟨rfl, rfl, rfl, rfl, rfl, rfl, ?_, ⟨_, rfl, ?_⟩, rfl⟩
    · by_cases hsquare : s.isSquare = true
      · refine (if_pos hsquare).mpr ?_
        rw [lockVoice_of_square hsquare]
        exact exists_execSquareWave _ _
      · refine (if_neg hsquare).mpr ?_
        rw [lockVoice_of_not_square hsquare]
        rfl
    · rw [updFilter_filter_same]
      rfl

/-- Settles O32: the two conditions of R342 on the slot and on the velocity. -/
theorem noteOnStartsTheChosenVoice : Obligations.NoteOnStartsTheChosenVoice :=
  fun s _ _ => ⟨s.findFreeVoice, rfl, rfl⟩

/-- Settles O33: the period of every slot is computed, so its start completes; a NOTE_ON starts one slot, and a message that is
none completes whatever the state. -/
theorem noteStartsComplete : Obligations.NoteStartsComplete := by
  rintro s note velocity ⟨hbase, hdetune⟩
  have hstart : ∀ v velocity, ∃ t, s.startVoice v note velocity = .next t ∧ VoiceFrame v s t := fun v velocity =>
    have ⟨_, hperiod, _⟩ := exists_calcPeriod (hbase v) hdetune
    exists_startVoice hperiod velocity
  have hnoteOn : ∀ velocity, ∃ v t, s.noteOn note velocity = .next t ∧ VoiceFrame v s t := fun velocity =>
    ⟨s.noteOnVoice, hstart s.noteOnVoice (s.usedVelocity velocity)⟩
  refine ⟨fun v => hstart v velocity, hnoteOn velocity, fun c d1 d2 hready hd1 => ?_, fun bytes hbytes => ?_⟩
  · obtain ⟨v, t, ht, hframe⟩ := hnoteOn (velocityOf d2)
    refine ⟨v, t, ?_, hframe⟩
    rw [exec_midiNoteOn_ready hready, noteOf, hd1, ht]
  · refine execHostMidi_completes fun velocity => ?_
    obtain ⟨-, t, ht, -⟩ := hnoteOn velocity
    exact ⟨t, hbytes ▸ ht⟩

end Sys2Proof
end

section
/-! SUPPORT AND OBLIGATIONS O34 TO O39: note-off, the pedal, panic, the pitch bend and the MIDI rows (45_engine_midi.md R330 to
R335, R340, R344 to R347). First what each operation does to a slot and to the engine registers, then what each row runs in a
ready block, then the statements. -/

namespace Sys2Proof.Safety

open Sys2Proof.Machine

/-- With the engine registers put back, what shared an engine write's registers shares the registers before it. -/
theorem SameShared.of_setEngine {s t : State} {e : Engine} (h : SameShared (s.setEngine e) t) :
    SameShared s { t with engine := s.engine } :=
  ⟨h.lfo, h.seed, rfl, h.derived, h.params, h.refused, h.firstRefused, h.words, h.port⟩

end Sys2Proof.Safety

namespace Sys2Proof.Machine

open Sys2Proof.Safety

variable {s : State}

/-! ## Note-off (45_engine_midi.md R344) -/

theorem noteOff_voice (s : State) (note : Int) (v : VoiceIdx) :
    (s.noteOff note).voice v = noteOffVoice s.engine.sustainPedal note (s.voice v) := State.voice_mapVoices s _ v

theorem noteOffVoice_other {note : Int} {x : Voice} (h : ¬ x.note = note) (pedal : Bool) : noteOffVoice pedal note x = x :=
  if_neg h

theorem noteOffVoice_marked {note : Int} {x : Voice} (h : x.note = note) :
    noteOffVoice true note x = x.setNote Config.sustain := if_pos h

theorem noteOffVoice_released {note : Int} {x : Voice} (h : x.note = note) :
    noteOffVoice false note x = x.voiceNoteOff.setNote 0 := if_pos h

theorem exists_execVoiceNoteOff (s : State) (v : VoiceIdx) :
    ∃ u, execVoiceNoteOff v s = .next u ∧ u.voice v = (s.voice v).voiceNoteOff :=
  ⟨_, rfl, State.voice_setVoice_same s v _⟩

/-! ## The pedal and panic (45_engine_midi.md R345, R346) -/

theorem sustainPedalChange_down {value : Nat} (h : 64 ≤ value) :
    s.sustainPedalChange value = s.setSustainPedal (decide (64 ≤ value)) := if_pos (decide_eq_true h)

theorem sustainPedalChange_up {value : Nat} (h : ¬ 64 ≤ value) :
    s.sustainPedalChange value = (s.setSustainPedal (decide (64 ≤ value))).noteOff (-1) :=
  if_neg (Bool.eq_false_iff.mp (decide_eq_false h))

theorem panic_voice (s : State) (v : VoiceIdx) : s.panic.voice v = (s.voice v).voiceReset :=
  State.voice_mapVoices s _ v

/-! ## The pitch bend (45_engine_midi.md R347) -/

/-- The centre's exponent is -0.0. -/
theorem bendRatio_zero : bendRatio 0 = (F32.zero true).exp :=
  congrArg F32.exp (show K.bendCoef.neg.mul (F32.ofInt 0) = F32.zero true by decide +kernel)

/-! ## The rows of a ready block (45_engine_midi.md R330 to R335) -/

theorem controllerOf_panic (k : BitVec 3) : controllerOf (0xF#4 ++ k) = 0x78 + k.toNat := by
  revert k
  decide

theorem bendSigned_eq (d1 d2 : Data7) : bendSigned d1 d2 = (d1.toNat : Int) + 128 * d2.toNat - 8192 := by
  rw [bendSigned, bend14]
  push_cast
  rfl

theorem exec_midiCcPanic_ready (h : s.engine.ready = true) (c : Nibble) (k : BitVec 3) (d2 : Data7) :
    exec (.midiCcPanic c k d2) s = .next (s.controlChange (0x78 + k.toNat) d2.toNat) := by
  rw [← controllerOf_panic]
  exact if_pos h

theorem exec_midiPitchBend_ready (h : s.engine.ready = true) (c : Nibble) (d1 d2 : Data7) :
    exec (.midiPitchBend c d1 d2) s = .next (s.setPitchBend (bendRatio ((d1.toNat : Int) + 128 * d2.toNat - 8192))) := by
  rw [← bendSigned_eq]
  exact if_pos h

theorem exec_midiCcOther_ready (h : s.engine.ready = true) (c : Nibble) (d1 d2 : Data7) :
    exec (.midiCcOther c d1 d2) s = .next (s.controlChange d1.toNat d2.toNat) := if_pos h

theorem controlChange_eq (s : State) (controller value : Nat) :
    Host.Outcome.next (s.controlChange controller value) =
      if controller = 0x40 then execSustainPedalChange value s
      else if 0x78 ≤ controller then execPanic s
      else .next s := by
  rw [State.controlChange, apply_ite Host.Outcome.next, apply_ite Host.Outcome.next]
  rfl

/-- A message of no byte, or of more than three, has no word. -/
theorem wordOfMessage_of_length {bytes : List Byte} (h : bytes.length = 0 ∨ 3 < bytes.length) :
    ∃ r, wordOfMessage bytes = .error r := by
  match bytes with
  | [] => exact ⟨_, rfl⟩
  | [_] | [_, _] | [_, _, _] => simp at h
  | _ :: _ :: _ :: _ :: _ => exact ⟨_, rfl⟩

theorem execHostMidi_of_length {bytes : List Byte} (hready : s.engine.ready = true)
    (h : bytes.length = 0 ∨ 3 < bytes.length) : execHostMidi bytes s = .next s := by
  obtain ⟨r, hr⟩ := wordOfMessage_of_length h
  rcases execHostMidi_cases bytes s with ⟨hn, -⟩ | ⟨-, -, e⟩ | ⟨-, w, hw, -⟩
  · cases hready.symm.trans hn
  · exact e
  · cases hr.symm.trans hw

end Sys2Proof.Machine

/-! ## The obligations -/

namespace Sys2Proof

open Sys2Proof.Machine Sys2Proof.Safety

/-- Settles O34: every slot goes through R344's test of its note and of the pedal. -/
theorem noteOffReleasesOrMarksEveryMatch : Obligations.NoteOffReleasesOrMarksEveryMatch := by
  intro s note
  refine ⟨_, rfl, voicesFrame_mapVoices s _, rfl, fun v => ?_⟩
  rw [noteOff_voice]
  split
  case isFalse hother => exact noteOffVoice_other hother _
  case isTrue hmatch =>
    cases s.engine.sustainPedal with
    | true => exact noteOffVoice_marked hmatch
    | false =>
      obtain ⟨u, hu, hvoice⟩ := exists_execVoiceNoteOff s v
      exact ⟨u, hu, by rw [noteOffVoice_released hmatch, hvoice]; rfl⟩

/-- Settles O35: the pedal register is written first; with the pedal up the note-off of the mark comes after it, which releases
the marked slots. -/
theorem sustainPedalUpReleasesMarked : Obligations.SustainPedalUpReleasesMarked := by
  intro s value
  have hframe := voicesFrame_sustainPedalChange s value
  refine ⟨?_, _, rfl, hframe.shared.engine, hframe.shared.of_setEngine, hframe.periodLow, fun hdown v => ?_,
    fun hup v => ?_⟩
  · by_cases hdown : 64 ≤ value
    · exact (congrArg Host.Outcome.next (sustainPedalChange_down hdown)).trans (if_pos hdown).symm
    · exact (congrArg Host.Outcome.next (sustainPedalChange_up hdown)).trans (if_neg hdown).symm
  · rw [sustainPedalChange_down hdown]
    rfl
  · have hpedal : (s.setSustainPedal (decide (64 ≤ value))).engine.sustainPedal = false := decide_eq_false hup.not_ge
    rw [sustainPedalChange_up hup.not_ge, noteOff_voice, hpedal, State.setSustainPedal_voice]
    split
    case isTrue hmarked => exact noteOffVoice_released hmarked
    case isFalse hother => exact noteOffVoice_other hother _

/-- Settles O36: every slot is reset, and the pedal is the only other register written. -/
theorem panicResetsEveryVoice : Obligations.PanicResetsEveryVoice := by
  intro s
  have hframe := voicesFrame_panic s
  refine ⟨_, rfl, hframe.shared.engine, hframe.shared.of_setEngine, hframe.periodLow, rfl, fun v => ⟨_, rfl, ?_⟩⟩
  rw [panic_voice, State.voice_setVoice_same]

/-- Settles O37: the bend writes its one register, which the refresh of a slot reads. -/
theorem pitchBendReachesTheNextRefresh : Obligations.PitchBendReachesTheNextRefresh := by
  intro s bend v
  refine ⟨_, _, rfl, rfl, fun hcentre => ?_, (SameShared.refl _).of_setEngine, fun _ => rfl, rfl, rfl,
    voiceFrame_setVoice s v _, State.voice_setVoice_same s v _⟩
  rw [hcentre]
  exact bendRatio_zero

/-- Settles O38: in a ready block a row is what it runs, with its operands as numbers. -/
theorem messagesRunTheirOperations : Obligations.MessagesRunTheirOperations := by
  intro s c d1 d2 k controller value
  refine ⟨controlChange_eq s controller value, ⟨_, rfl⟩, fun hready => ?_⟩
  have hnoteOff : exec (.midiNoteOff c d1 d2) s = .next (s.noteOff d1.toNat) := if_pos hready
  have hnoteOnV0 : exec (.midiNoteOnV0 c d1) s = .next (s.noteOff d1.toNat) := if_pos hready
  have hsustain : exec (.midiCcSustain c d2) s = .next (s.controlChange 0x40 d2.toNat) := if_pos hready
  have hpanic := exec_midiCcPanic_ready hready c k d2
  have hother := exec_midiCcOther_ready hready c d1 d2
  have hbend := exec_midiPitchBend_ready hready c d1 d2
  refine ⟨hnoteOff, hnoteOnV0, exec_midiNoteOn_ready hready c d1 d2, hsustain, hpanic, hother, hbend, ⟨_, hnoteOff⟩,
    ⟨_, hnoteOnV0⟩, ⟨_, hsustain⟩, ⟨_, hpanic⟩, fun hwf => ?_, ⟨_, hbend⟩⟩
  exact hother.trans (congrArg Host.Outcome.next (controlChange_other hwf s d2.toNat))

/-- Settles O39: in a ready block the ignored rows run nothing, and a message of illegal length has no word to run. -/
theorem ignoredMessagesChangeNothing : Obligations.IgnoredMessagesChangeNothing :=
  fun _ _ _ _ _ _ hready =>
    ⟨if_pos hready, if_pos hready, if_pos hready, if_pos hready, if_pos hready, execHostMidi_of_length hready⟩

end Sys2Proof
end

section
/-! SUPPORT AND OBLIGATION O59: P18 has no effect (45_engine_midi.md R343). First the operands that read a parameter, then the
operations, from the voice up to the render call, then what a command answers, then the statement. -/

namespace Sys2Proof.Machine

open Sys2Proof.Safety

section Operations

variable (s : State) (x : F32)

/-! ## The operands that read a parameter (10_state.md R70) -/

theorem isSquare_setParam18 : (s.setParam 18 x).isSquare = s.isSquare := by simp [State.isSquare]

theorem isPoly_setParam18 : (s.setParam 18 x).isPoly = s.isPoly := by simp [State.isPoly]

theorem ignoresVelocity_setParam18 : (s.setParam 18 x).ignoresVelocity = s.ignoresVelocity := by
  simp [State.ignoresVelocity]

theorem detuneEff_setParam18 : (s.setParam 18 x).detuneEff = s.detuneEff := by
  rw [State.detuneEff, isSquare_setParam18]
  rfl

theorem cutoffEff_setParam18 : (s.setParam 18 x).cutoffEff = s.cutoffEff := by simp [State.cutoffEff, State.filterCutoff]

theorem filterQ_setParam18 : (s.setParam 18 x).filterQ = s.filterQ := by simp [State.filterQ]

theorem lfoTicked_setParam18 : (s.setParam 18 x).lfoTicked = s.lfoTicked := by
  have hphase : (s.setParam 18 x).lfoNextPhase = s.lfoNextPhase := rfl
  simp [State.lfoTicked, hphase, State.vibratoDepth, State.filterLfoDepth]

theorem basePeriod_setParam18 (v : VoiceIdx) (note : Nat) : (s.setParam 18 x).basePeriod v note = s.basePeriod v note := by
  simp [State.basePeriod, State.pitch, State.tuningCents]

theorem usedVelocity_setParam18 (velocity : Nat) : (s.setParam 18 x).usedVelocity velocity = s.usedVelocity velocity := by
  rw [State.usedVelocity, ignoresVelocity_setParam18]
  rfl

theorem deriveCoefficients_setParam18 : (s.setParam 18 x).deriveCoefficients = s.deriveCoefficients := by
  have hrelease : (s.setParam 18 x).envReleasePct = s.envReleasePct := by simp [State.envReleasePct]
  rw [State.deriveCoefficients, hrelease]
  simp [State.deriveCoefficients, State.envAttackPct, State.envDecayPct, State.envSustainPct, State.oscTuneSemis,
    State.oscFineCents, State.lfoRate]

theorem deriveNumVoices_setParam18 : (s.setParam 18 x).deriveNumVoices = s.deriveNumVoices := by
  rw [State.deriveNumVoices, isPoly_setParam18]
  rfl

theorem noiseMix_setParam18 : (s.setParam 18 x).noiseMix = s.noiseMix := by simp [State.noiseMix]

theorem outputLevel_setParam18 : (s.setParam 18 x).outputLevel = s.outputLevel := by simp [State.outputLevel]

/-! ## Voices (41_filter.md R246, 45_engine_midi.md R340, R341) -/

variable (y : Voice)

theorem refreshVoice_setParam18 : (s.setParam 18 x).refreshVoice y = s.refreshVoice y := by
  rw [State.refreshVoice, detuneEff_setParam18]
  rfl

theorem applyCutoff_setParam18 : (s.setParam 18 x).applyCutoff y = s.applyCutoff y := by
  rw [State.applyCutoff, cutoffEff_setParam18, filterQ_setParam18]
  rfl

theorem tickVoice_setParam18 : (s.setParam 18 x).tickVoice y = s.tickVoice y := by
  rw [State.tickVoice, applyCutoff_setParam18, refreshVoice_setParam18]
  rfl

theorem loadVoice_setParam18 (p : F32) (note velocity : Nat) :
    (s.setParam 18 x).loadVoice y p note velocity = s.loadVoice y p note velocity := by
  simp only [State.loadVoice, refreshVoice_setParam18]
  simp [State.volumeTrim, State.oscMix]

theorem startedVoice_setParam18 (p : F32) (note velocity : Nat) :
    (s.setParam 18 x).startedVoice y p note velocity = s.startedVoice y p note velocity := by
  rw [State.startedVoice, applyCutoff_setParam18, State.lockVoice, isSquare_setParam18, loadVoice_setParam18]
  rfl

theorem calcPeriod_setParam18 (v : VoiceIdx) (note : Nat) :
    (s.setParam 18 x).calcPeriod v note = s.calcPeriod v note := by
  rw [State.calcPeriod, detuneEff_setParam18, basePeriod_setParam18, State.calcPeriod]

/-! ## The render call (43_lfo_noise.md R291, 46_host_render.md R375 to R379) -/

theorem lfoTick_setParam18 : (s.setParam 18 x).lfoTick = s.lfoTick.setParam 18 x := by
  by_cases h : s.lfo.step - 1 ≤ 0
  · rw [lfoTick_of_tick h, lfoTick_of_tick (s := s.setParam 18 x) h, lfoTicked_setParam18]
    exact congrArg (State.mapVoices _) (funext₂ fun _ y => tickVoice_setParam18 (s.setLfo s.lfoTicked) x y)
  · rw [lfoTick_of_not_tick h, lfoTick_of_not_tick (s := s.setParam 18 x) h]
    rfl

theorem refreshActive_setParam18 : (s.setParam 18 x).refreshActive = s.refreshActive.setParam 18 x := by
  simp only [State.refreshActive, refreshVoice_setParam18]
  rfl

/-- The sums of a sample under way, with a parameter written in their state. -/
def Mix.setParam (i : Fin 20) (x : F32) (m : Mix) : Mix := { m with state := m.state.setParam i x }

theorem addVoice_setParam (i : Fin 20) (nz : F32) (m : Mix) (v : VoiceIdx) :
    (m.setParam i x).addVoice nz v = (m.addVoice nz v).setParam i x := by
  have hvoice : (m.setParam i x).state.voice v = m.state.voice v := rfl
  simp only [Mix.addVoice, hvoice]
  split <;> rfl

theorem mixVoices_setParam (i : Fin 20) (nz : F32) :
    (s.setParam i x).mixVoices nz = (s.mixVoices nz).setParam i x := by
  unfold State.mixVoices
  exact List.foldl_hom (Mix.setParam i x) (init := { state := s, l := K.zero, r := K.zero }) (addVoice_setParam x i nz)

/-- The two words of sample `i` written from the sums (46_host_render.md R378). -/
def Mix.store (m : Mix) (i : Nat) (level : F32) : State :=
  m.state.setMemory ((m.state.memory.outWrite .left i (m.l.mul level)).outWrite .right i (m.r.mul level))

theorem store_setParam (j : Fin 20) (m : Mix) (i : Nat) (level : F32) :
    (m.setParam j x).store i level = (m.store i level).setParam j x := rfl

theorem renderSample_eq_store (i : Nat) :
    s.renderSample i =
      (s.lfoTick.noiseNext.mixVoices ((noiseSample s.lfoTick.noiseNext.seed).mul s.noiseMix)).store i s.outputLevel := by
  rw [State.renderSample, Mix.store]

theorem setSeed_setParam (j : Fin 20) (w : Word32) : (s.setParam j x).setSeed w = (s.setSeed w).setParam j x := rfl

theorem noiseNext_setParam (j : Fin 20) : (s.setParam j x).noiseNext = s.noiseNext.setParam j x := by
  rw [State.noiseNext, State.setParam_seed, setSeed_setParam, State.noiseNext]

theorem renderSample_setParam18 (i : Nat) : (s.setParam 18 x).renderSample i = (s.renderSample i).setParam 18 x := by
  rw [renderSample_eq_store, lfoTick_setParam18, noiseNext_setParam, State.setParam_seed, noiseMix_setParam18,
    mixVoices_setParam, outputLevel_setParam18, store_setParam, renderSample_eq_store]

theorem renderSamples_setParam18 (n : Nat) :
    (s.setParam 18 x).renderSamples n = (s.renderSamples n).setParam 18 x := by
  induction n with
  | zero => rfl
  | succ n ih => rw [State.renderSamples, ih, renderSample_setParam18, State.renderSamples]

theorem render_setParam18 (n : Nat) : (s.setParam 18 x).render n = (s.render n).setParam 18 x := by
  have hmemory : (s.setParam 18 x).setMemory Memory.empty = (s.setMemory Memory.empty).setParam 18 x := rfl
  have hreclaim : ∀ t : State, (t.setParam 18 x).reclaim = t.reclaim.setParam 18 x := fun _ => rfl
  have hclamp : ∀ (t : State) (ch : Channel), (t.setParam 18 x).safetyClamp ch = (t.safetyClamp ch).setParam 18 x :=
    fun _ _ => rfl
  simp only [render_eq, hmemory, refreshActive_setParam18, renderSamples_setParam18, hreclaim, hclamp]

/-! ## Derivation (46_host_render.md R389, R390) -/

theorem derive_setParam18 : (s.setParam 18 x).derive = s.derive.setParam 18 x := by
  rw [State.derive, deriveCoefficients_setParam18, deriveNumVoices_setParam18]
  rfl

theorem hostAlloc_setParam18 (sr : F32) (bs : Int) :
    (s.setParam 18 x).hostAlloc sr bs = (s.hostAlloc sr bs).setParam 18 x := derive_setParam18 (s.setEngine _) x

theorem setParam_comm {i j : Fin 20} (h : i ≠ j) (z : F32) :
    (s.setParam i x).setParam j z = (s.setParam j z).setParam i x := by
  have hval : i.val ≠ j.val := fun e => h (Fin.ext e)
  simp only [State.setParam, State.mk.injEq, true_and, and_true]
  exact Vector.set_comm x z hval

end Operations

/-! ## What a command answers -/

/-- With another value in P18 the command answers the same outcome, with that value still in P18. -/
def IgnoresP18 (run : State → Host.Outcome State Fault Refusal) : Prop :=
  ∀ s x, run (s.setParam 18 x) = mapNext (withParam 18 x) (run s)

theorem IgnoresP18.next {f : State → State} (h : ∀ s x, f (s.setParam 18 x) = (f s).setParam 18 x) :
    IgnoresP18 fun s => .next (f s) := fun s x => congrArg Host.Outcome.next (h s x)

theorem IgnoresP18.ite {c : State → Bool} {run run' : State → Host.Outcome State Fault Refusal}
    (hc : ∀ s x, c (s.setParam 18 x) = c s) (h : IgnoresP18 run) (h' : IgnoresP18 run') :
    IgnoresP18 fun s => if c s then run s else run' s := by
  intro s x
  simp only [hc]
  cases c s with
  | true => exact h s x
  | false => exact h' s x

theorem ignoresP18_refuse (c : Command) : IgnoresP18 fun s => .next (s.refuse c) := .next fun _ _ => rfl

theorem IgnoresP18.midiCommand {run : State → Host.Outcome State Fault Refusal} (h : IgnoresP18 run) (bytes : List Byte) :
    IgnoresP18 (midiCommand bytes run) :=
  .ite (c := fun s => s.engine.ready) (fun _ _ => rfl) h (ignoresP18_refuse _)

theorem ignoresP18_noiseNext : IgnoresP18 execNoiseNext := by
  have hret : ∀ (t : State) (x : F32) (r : RetVal), (t.setParam 18 x).setRet r = (t.setRet r).setParam 18 x :=
    fun _ _ _ => rfl
  refine .next fun s x => ?_
  rw [noiseNext_setParam, State.setParam_seed, hret]

theorem ignoresP18_calcPeriod (v : VoiceIdx) (note : Nat) : IgnoresP18 (execCalcPeriod v note) := by
  intro s x
  cases h : s.calcPeriod v note with
  | none =>
    rw [execCalcPeriod_of_none h, execCalcPeriod_of_none ((calcPeriod_setParam18 s x v note).trans h)]
    rfl
  | some p =>
    rw [execCalcPeriod_of_some h, execCalcPeriod_of_some ((calcPeriod_setParam18 s x v note).trans h)]
    rfl

theorem ignoresP18_startVoice (v : VoiceIdx) (note velocity : Nat) :
    IgnoresP18 fun s => s.startVoice v note velocity := by
  intro s x
  cases h : s.calcPeriod v note with
  | none =>
    simp only [startVoice_of_none h, startVoice_of_none ((calcPeriod_setParam18 s x v note).trans h)]
    rfl
  | some p =>
    simp only [startVoice_of_some h, startVoice_of_some ((calcPeriod_setParam18 s x v note).trans h),
      startedVoice_setParam18]
    rfl

theorem ignoresP18_noteOn (note velocity : Nat) : IgnoresP18 fun s => s.noteOn note velocity := by
  intro s x
  show (s.setParam 18 x).startVoice s.noteOnVoice note ((s.setParam 18 x).usedVelocity velocity) = _
  rw [usedVelocity_setParam18]
  exact ignoresP18_startVoice s.noteOnVoice note (s.usedVelocity velocity) s x

theorem noteOff_setParam (s : State) (i : Fin 20) (x : F32) (note : Int) :
    (s.setParam i x).noteOff note = (s.noteOff note).setParam i x := rfl

theorem sustainPedalChange_setParam (s : State) (i : Fin 20) (x : F32) (value : Nat) :
    (s.setParam i x).sustainPedalChange value = (s.sustainPedalChange value).setParam i x := by
  by_cases h : 64 ≤ value
  · rw [sustainPedalChange_down h, sustainPedalChange_down h]
    rfl
  · rw [sustainPedalChange_up h, sustainPedalChange_up h]
    rfl

theorem controlChange_setParam (s : State) (i : Fin 20) (x : F32) (controller value : Nat) :
    (s.setParam i x).controlChange controller value = (s.controlChange controller value).setParam i x := by
  simp only [State.controlChange, sustainPedalChange_setParam, apply_ite (State.setParam · i x)]
  rfl

/-- The rows: what they run reads no parameter, but for the note-on. -/
theorem ignoresP18_row {i : Instr} {m : List Byte} (hrow : encode i = some m) : IgnoresP18 (exec i) := by
  cases i
  case midiIgnData | midiIgnPolyPressure | midiIgnProgram | midiIgnChannelPressure | midiIgnSystem =>
    exact IgnoresP18.midiCommand (run := noEffect) (.next fun _ _ => rfl) _
  case midiNoteOff | midiNoteOnV0 =>
    exact IgnoresP18.midiCommand (run := fun t => .next (t.noteOff _)) (.next fun _ _ => rfl) _
  case midiNoteOn => exact (ignoresP18_noteOn _ _).midiCommand _
  case midiCcSustain | midiCcPanic | midiCcOther =>
    exact IgnoresP18.midiCommand (run := fun t => .next (t.controlChange _ _))
      (.next fun s x => controlChange_setParam s 18 x _ _) _
  case midiPitchBend =>
    exact IgnoresP18.midiCommand (run := fun t => .next (t.setPitchBend _)) (.next fun _ _ => rfl) _
  all_goals cases hrow

theorem ignoresP18_hostMidi (bytes : List Byte) : IgnoresP18 (execHostMidi bytes) := by
  refine IgnoresP18.midiCommand (fun s x => ?_) bytes
  cases wordOfMessage bytes with
  | error r => rfl
  | ok w =>
    obtain ⟨m, hrow⟩ := Option.isSome_iff_exists.mp (encode_decodeWord_isSome w)
    exact (runWord_eq_exec w _).trans
      ((ignoresP18_row hrow s x).trans (congrArg (mapNext _) (runWord_eq_exec w s).symm))

theorem ignoresP18_hostAlloc (sr : F32) (bs : Int) : IgnoresP18 (execHostAlloc sr bs) :=
  .ite (c := fun _ => allocOperandsBad sr bs) (fun _ _ => rfl) (ignoresP18_refuse _)
    (.next fun s x => hostAlloc_setParam18 s x sr bs)

theorem ignoresP18_hostReset : IgnoresP18 execHostReset :=
  .ite (c := fun s => s.engine.allocated) (fun _ _ => rfl) (.next fun _ _ => rfl) (ignoresP18_refuse _)

theorem ignoresP18_hostRender (n : Nat) : IgnoresP18 (execHostRender n) :=
  .ite (c := fun s => s.engine.ready) (fun _ _ => rfl) (.next fun s x => render_setParam18 s x n) (ignoresP18_refuse _)

/-- A write to another parameter, and the derivation after it. -/
theorem ignoresP18_hostSetParam {id : Int} (hid : id ≠ 18) (y : F32) : IgnoresP18 (execHostSetParam id y) := by
  intro s x
  unfold execHostSetParam
  cases hi : paramIndex id with
  | none => rfl
  | some i =>
    have hne : (18 : Fin 20) ≠ i := fun e => hid (by rw [eq_of_paramIndex hi, ← e]; rfl)
    have haccept : IgnoresP18 fun t => .next
        (if (t.setParam i y).hasBeenAllocated then (t.setParam i y).derive else t.setParam i y) := by
      refine .next fun t x => ?_
      rw [setParam_comm t x hne, derive_setParam18, hasBeenAllocated_setParam]
      exact (apply_ite (State.setParam · 18 x) _ _ _).symm
    exact IgnoresP18.ite (c := fun _ => paramValueBad i y || switchValueBad i y) (fun _ _ => rfl) (ignoresP18_refuse _)
      haccept s x

/-! ## Every instruction -/

theorem exec_ignoresP18 {i : Instr} (hi : ∀ y, i ≠ .hostSetParam 18 y) : IgnoresP18 (exec i) := by
  cases i
  case hostAlloc sr bs => exact ignoresP18_hostAlloc sr bs
  case hostReset => exact ignoresP18_hostReset
  case hostRender n => exact ignoresP18_hostRender n
  case hostSetParam id y => exact ignoresP18_hostSetParam (fun e => hi y (by rw [e])) y
  case hostMidi bytes => exact ignoresP18_hostMidi bytes
  case lfoTick => exact .next lfoTick_setParam18
  case noiseNext => exact ignoresP18_noiseNext
  case derive => exact .next derive_setParam18
  case refreshPeriods v => exact .next fun s x => by rw [refreshVoice_setParam18]; rfl
  case calcPeriod v note => exact ignoresP18_calcPeriod v note
  case startVoice v note velocity => exact ignoresP18_startVoice v note velocity
  case noteOn note velocity => exact ignoresP18_noteOn note velocity
  case controlChange controller value => exact .next fun s x => controlChange_setParam s 18 x controller value
  case sustainPedalChange value => exact .next fun s x => sustainPedalChange_setParam s 18 x value
  case hostDealloc | oscReset | nextSample | oscRender | squareWave | updateCoefficients | filterRender | filterReset
      | attack | nextValue | release | isActive | isInAttack | envReset | voiceRender | voiceUpdate | voiceNoteOff
      | voiceReset | findFreeVoice | noteOff | panic | setPitchBend | reclaim | safetyClamp =>
    exact fun _ _ => rfl
  all_goals exact ignoresP18_row rfl

end Sys2Proof.Machine

/-! ## The obligation -/

namespace Sys2Proof

open Sys2Proof.Machine

/-- Settles O59: the operands that read a parameter read another one than P18, so every operation commutes with the write. -/
theorem velocitySensitivityIsReadByNoRule : Obligations.VelocitySensitivityIsReadByNoRule :=
  fun _ s x hi => exec_ignoresP18 hi s x

end Sys2Proof
end

section
/-! SUPPORT AND OBLIGATIONS O45, O48, O49 AND O52: the render call and its safety clamp (46_host_render.md R375 to R380). First a
channel clamped, whole and twice; then the call as the program of R375, operation by operation; then a call without an active
voice; then the statements. -/

namespace Sys2Proof.F32

open Sys2Proof.Safety

theorem isFinite_of_bounds {x lo hi : F32} (hnan : x.isNaN = false) (hlo : x.lt lo = false) (hhi : x.gt hi = false)
    (hlo' : isFinite lo = true) (hhi' : isFinite hi = true) : isFinite x = true := by
  cases x with
  | nan => cases hnan
  | num s e f => rfl
  | inf s =>
    obtain ⟨t, e, f, rfl⟩ := exists_num_of_isFinite hlo'
    obtain ⟨t', e', f', rfl⟩ := exists_num_of_isFinite hhi'
    rw [(comparisons_inf_num s t e f).1] at hlo
    rw [gt, (comparisons_inf_num s t' e' f').2.2.2.1, hlo] at hhi
    cases hhi

theorem zero_eq_zero (s : Bool) : eq (zero s) K.zero = true := by
  cases s <;> decide +kernel

end Sys2Proof.F32

namespace Sys2Proof.Machine

open Sys2Proof.Safety

/-! ## A clamped channel (46_host_render.md R379) -/

theorem clampWord_minusOne : clampWord K.minusOne = K.minusOne := by decide +kernel

theorem clampWord_one : clampWord K.one = K.one := by decide +kernel

theorem clampWord_zero (s : Bool) : clampWord (F32.zero s) = F32.zero s := by
  cases s <;> decide +kernel

theorem isUnitWord_zero : isUnitWord K.zero = true := by decide +kernel

/-- The clamp gives a limit, or the word as it is. -/
theorem clampWord_cases (x : F32) : clampWord x = K.minusOne ∨ clampWord x = K.one ∨ clampWord x = x := by
  unfold clampWord
  split
  · exact .inl rfl
  · split
    · exact .inr (.inl rfl)
    · exact .inr (.inr rfl)

theorem clampWord_clampWord (x : F32) : clampWord (clampWord x) = clampWord x := by
  rcases clampWord_cases x with h | h | h
  · rw [h, clampWord_minusOne]
  · rw [h, clampWord_one]
  · rw [h, h]

theorem wordIsCatastrophic_clampWord {x : F32} (h : wordIsCatastrophic x = false) :
    wordIsCatastrophic (clampWord x) = false := by
  rcases clampWord_cases x with e | e | e
  · rw [e]; decide +kernel
  · rw [e]; decide +kernel
  · rw [e, h]

/-- What the clamp makes of a channel's words. -/
def clampedChannel (ws : List F32) : List F32 :=
  if ws.any wordIsCatastrophic then List.replicate ws.length K.zero else ws.map clampWord

/-- The clamp silences the channel, or limits words none of which is catastrophic. -/
theorem clampedChannel_cases (ws : List F32) :
    clampedChannel ws = List.replicate ws.length K.zero ∨
      (∀ x ∈ ws, wordIsCatastrophic x = false) ∧ clampedChannel ws = ws.map clampWord := by
  unfold clampedChannel
  split
  · exact .inl rfl
  case isFalse h => exact .inr ⟨fun x hx => Bool.eq_false_iff.mpr fun hc => h (List.any_eq_true.mpr ⟨x, hx, hc⟩), rfl⟩

theorem clampedChannel_of_safe {ws : List F32} (h : ∀ x ∈ ws, wordIsCatastrophic x = false) :
    clampedChannel ws = ws.map clampWord :=
  if_neg fun hany => by
    obtain ⟨x, hx, hc⟩ := List.any_eq_true.mp hany
    exact absurd hc (Bool.eq_false_iff.mp (h x hx))

theorem mem_clampedChannel {ws : List F32} {y : F32} (h : y ∈ clampedChannel ws) :
    y = K.zero ∨ ∃ x ∈ ws, wordIsCatastrophic x = false ∧ clampWord x = y := by
  rcases clampedChannel_cases ws with e | ⟨hsafe, e⟩
  · rw [e] at h
    exact .inl (List.eq_of_mem_replicate h)
  · rw [e] at h
    obtain ⟨x, hx, hy⟩ := List.mem_map.mp h
    exact .inr ⟨x, hx, hsafe x hx, hy⟩

/-- Clamped words are safe and clamp to themselves. -/
theorem clamped_of_mem_clampedChannel {ws : List F32} {y : F32} (h : y ∈ clampedChannel ws) :
    wordIsCatastrophic y = false ∧ clampWord y = y ∧ isUnitWord y = true := by
  rcases mem_clampedChannel h with rfl | ⟨x, -, hsafe, rfl⟩
  · exact ⟨by decide +kernel, clampWord_zero false, isUnitWord_zero⟩
  · exact ⟨wordIsCatastrophic_clampWord hsafe, clampWord_clampWord x, isUnitWord_clampWord x hsafe⟩

theorem clampedChannel_clampedChannel (ws : List F32) : clampedChannel (clampedChannel ws) = clampedChannel ws := by
  rw [clampedChannel_of_safe fun x hx => (clamped_of_mem_clampedChannel hx).1]
  exact (List.map_congr_left fun x hx => (clamped_of_mem_clampedChannel hx).2.1).trans (List.map_id _)

theorem Memory.safetyClamp_eq_setWords (m : Memory) (ch : Channel) :
    m.safetyClamp ch = m.setWords ch (clampedChannel (m.words ch)) := Memory.safetyClamp_eq m ch

theorem Memory.safetyClamp_safetyClamp (m : Memory) (ch : Channel) :
    (m.safetyClamp ch).safetyClamp ch = m.safetyClamp ch := by
  simp only [Memory.safetyClamp_eq_setWords, Memory.words_setWords_same, Memory.setWords_setWords,
    clampedChannel_clampedChannel]

theorem Memory.outRead_safetyClamp_ne (m : Memory) {ch c : Channel} (h : c ≠ ch) (i : Nat) :
    (m.safetyClamp ch).outRead c i = m.outRead c i := by
  rw [Memory.outRead, Memory.safetyClamp_eq_setWords, Memory.words_setWords_ne _ _ _ _ h, Memory.outRead]

/-! ## The words of a render call (46_host_render.md R380) -/

theorem render_words_eq_clampedChannel (s : State) (n : Nat) (ch : Channel) :
    (s.render n).memory.words ch =
      clampedChannel (((s.setMemory Memory.empty).refreshActive.renderSamples n).memory.words ch) := render_words s n ch

theorem isUnitWord_of_mem_render {s : State} {n : Nat} {ch : Channel} {x : F32}
    (h : x ∈ (s.render n).memory.words ch) : isUnitWord x = true := by
  rw [render_words_eq_clampedChannel] at h
  exact (clamped_of_mem_clampedChannel h).2.2

/-! ## The render call as a program over the block's operations (46_host_render.md R375, R377)

The program leaves what its operations return in `ret`, which the model's loop does not write: at each point the two states
differ there alone. -/

section Program

variable (s : State) (r : RetVal)

/-- What the refresh of R377 does to a voice. -/
def State.refreshIfActive (x : Voice) : Voice := if x.env.isActive then s.refreshVoice x else x

theorem refreshActive_eq_mapVoices : s.refreshActive = s.mapVoices fun _ x => s.refreshIfActive x := rfl

theorem refreshOne_eq_setVoice (v : VoiceIdx) : refreshOne s v = s.setVoice v (s.refreshIfActive (s.voice v)) := by
  unfold refreshOne State.refreshIfActive
  split
  · rfl
  · rw [State.setVoice_voice]

/-- Refreshing one slot after another refreshes each as it was: a refresh reads no other slot. -/
theorem foldl_refreshOne {vs : List VoiceIdx} (hvs : vs.Nodup) :
    vs.foldl refreshOne s = s.mapVoices fun v x => if v ∈ vs then s.refreshIfActive x else x := by
  induction vs generalizing s with
  | nil => exact State.ext_voices (fun v => by simp) rfl
  | cons v vs ih =>
    obtain ⟨hv, hvs⟩ := List.nodup_cons.mp hvs
    rw [List.foldl_cons, ih _ hvs, refreshOne_eq_setVoice]
    refine State.ext_voices (fun w => ?_) rfl
    rw [State.voice_mapVoices, State.voice_mapVoices, State.voice_setVoice]
    by_cases hw : w = v
    · subst hw
      rw [if_pos rfl, if_pos List.mem_cons_self, if_neg hv]
    · rw [if_neg hw]
      simp only [List.mem_cons, hw, false_or]
      rfl

theorem foldl_refreshOne_voiceOrder : voiceOrder.foldl refreshOne s = s.refreshActive := by
  rw [foldl_refreshOne s (by decide), refreshActive_eq_mapVoices]
  simp only [mem_voiceOrder, if_true]

/-! ### A voice in the sums -/

variable {m : Mix} {v : VoiceIdx}

theorem addVoice_of_active (h : (m.state.voice v).env.isActive = true) (nz : F32) :
    m.addVoice nz v =
      { state := (m.state.setVoice v ((m.state.voice v).voiceRender nz).voice).raisePeriodLow
          ((m.state.voice v).voiceRender nz).low,
        l := m.l.add (((m.state.voice v).voiceRender nz).out.mul (m.state.voice v).panLeft),
        r := m.r.add (((m.state.voice v).voiceRender nz).out.mul (m.state.voice v).panRight) } := if_pos h

theorem addVoice_of_inactive (h : ¬ (m.state.voice v).env.isActive = true) (nz : F32) : m.addVoice nz v = m := if_neg h

/-! ### What a returned value changes: nothing but itself -/

/-- The sums of a sample under way, with a returned value left in their state. -/
def Mix.setRet (r : RetVal) (m : Mix) : Mix := { m with state := m.state.setRet r }

theorem setRet_setRet (r' : RetVal) : (s.setRet r).setRet r' = s.setRet r' := rfl

theorem mixSetRet_setRet (m : Mix) (r' : RetVal) : (m.setRet r).setRet r' = m.setRet r' := rfl

theorem store_setRet (m : Mix) (i : Nat) (level : F32) : (m.setRet r).store i level = (m.store i level).setRet r := rfl

theorem noiseNext_setRet : (s.setRet r).noiseNext = s.noiseNext.setRet r := rfl

theorem lfoTick_setRet : (s.setRet r).lfoTick = s.lfoTick.setRet r := by
  by_cases h : s.lfo.step - 1 ≤ 0
  · rw [lfoTick_of_tick h, lfoTick_of_tick (s := s.setRet r) h]
    rfl
  · rw [lfoTick_of_not_tick h, lfoTick_of_not_tick (s := s.setRet r) h]
    rfl

theorem addVoice_setRet (nz : F32) (m : Mix) (v : VoiceIdx) : (m.setRet r).addVoice nz v = (m.addVoice nz v).setRet r := by
  by_cases h : (m.state.voice v).env.isActive = true
  · rw [addVoice_of_active h, addVoice_of_active (m := m.setRet r) h]
    rfl
  · rw [addVoice_of_inactive h, addVoice_of_inactive (m := m.setRet r) h]

theorem foldl_addVoice_setRet (nz : F32) (m : Mix) (vs : List VoiceIdx) :
    vs.foldl (Mix.addVoice nz) (m.setRet r) = (vs.foldl (Mix.addVoice nz) m).setRet r :=
  List.foldl_hom (Mix.setRet r) (addVoice_setRet r nz)

theorem mixVoices_setRet (nz : F32) : (s.setRet r).mixVoices nz = (s.mixVoices nz).setRet r :=
  foldl_addVoice_setRet r nz { state := s, l := K.zero, r := K.zero } voiceOrder

theorem renderSample_setRet (i : Nat) : (s.setRet r).renderSample i = (s.renderSample i).setRet r := by
  have hnoiseMix : (s.setRet r).noiseMix = s.noiseMix := rfl
  have hlevel : (s.setRet r).outputLevel = s.outputLevel := rfl
  rw [renderSample_eq_store, lfoTick_setRet, noiseNext_setRet, State.setRet_seed, hnoiseMix, mixVoices_setRet, hlevel,
    store_setRet, renderSample_eq_store]

/-! ### The program is the loop, but for the returned value -/

/-- A voice is mixed as the loop mixes it: rendering keeps the pan gains that R378 reads. -/
theorem exists_mixOne_eq (nz : F32) (m : Mix) (v : VoiceIdx) : ∃ r, mixOne nz m v = (m.addVoice nz v).setRet r := by
  by_cases h : (m.state.voice v).env.isActive = true
  · have hvoice : (after (.voiceRender v nz) m.state).voice v = ((m.state.voice v).voiceRender nz).voice :=
      putVoice_voice_same m.state v _ _ _
    refine ⟨.word ((m.state.voice v).voiceRender nz).out, ?_⟩
    rw [mixOne, if_pos h, addVoice_of_active h]
    simp only [hvoice]
    rfl
  · exact ⟨m.state.ret, by rw [mixOne, if_neg h, addVoice_of_inactive h]; rfl⟩

theorem exists_foldl_mixOne_eq (nz : F32) (m : Mix) (vs : List VoiceIdx) :
    ∃ r, vs.foldl (mixOne nz) m = (vs.foldl (Mix.addVoice nz) m).setRet r := by
  induction vs generalizing m with
  | nil => exact ⟨m.state.ret, rfl⟩
  | cons v vs ih =>
    obtain ⟨r, hv⟩ := exists_mixOne_eq nz m v
    obtain ⟨r', hvs⟩ := ih (mixOne nz m v)
    exact ⟨r', by rw [List.foldl_cons, hvs, hv, foldl_addVoice_setRet, mixSetRet_setRet, List.foldl_cons]⟩

/-- The sample's first two operations, and the noise sample they return. -/
theorem after_noiseNext_lfoTick :
    after .noiseNext (after .lfoTick s) =
      s.lfoTick.noiseNext.setRet (.word (noiseSample s.lfoTick.noiseNext.seed)) := rfl

theorem returned_setRet_word (x : F32) : returned (s.setRet (.word x)) = x := rfl

theorem sampleProgram_eq_store (i : Nat) :
    sampleProgram i s =
      (voiceOrder.foldl
        (mixOne ((returned (after .noiseNext (after .lfoTick s))).mul ((after .noiseNext (after .lfoTick s)).param 13)))
        { state := after .noiseNext (after .lfoTick s), l := K.zero, r := K.zero }).store i (s.param 15) := by
  rw [sampleProgram, Mix.store]

theorem lfoTick_param (i : Fin 20) : s.lfoTick.param i = s.param i := (renderKept_lfoTick s).param i

/-- The sums of a sample, as the program takes them. -/
theorem exists_mixProgram_eq (nz : F32) :
    ∃ r', voiceOrder.foldl (mixOne nz) { state := s.setRet r, l := K.zero, r := K.zero } = (s.mixVoices nz).setRet r' := by
  obtain ⟨r', h⟩ := exists_foldl_mixOne_eq nz { state := s.setRet r, l := K.zero, r := K.zero } voiceOrder
  exact ⟨r', by rw [h, ← State.mixVoices, mixVoices_setRet, mixSetRet_setRet]⟩

theorem exists_sampleProgram_eq (i : Nat) : ∃ r, sampleProgram i s = (s.renderSample i).setRet r := by
  have hnoise : (s.lfoTick.noiseNext.setRet (.word (noiseSample s.lfoTick.noiseNext.seed))).param 13 = s.noiseMix := by
    rw [State.setRet_param, State.noiseNext, State.setSeed_param, lfoTick_param, State.noiseMix]
  obtain ⟨r, hmix⟩ := exists_mixProgram_eq s.lfoTick.noiseNext (.word (noiseSample s.lfoTick.noiseNext.seed))
    ((noiseSample s.lfoTick.noiseNext.seed).mul s.noiseMix)
  refine ⟨r, ?_⟩
  rw [sampleProgram_eq_store, after_noiseNext_lfoTick, hnoise, returned_setRet_word, hmix, store_setRet,
    renderSample_eq_store, State.outputLevel]

theorem exists_samplesProgram_eq (n : Nat) : ∃ r, samplesProgram n s = (s.renderSamples n).setRet r := by
  induction n with
  | zero => exact ⟨s.ret, rfl⟩
  | succ n ih =>
    obtain ⟨r, hn⟩ := ih
    obtain ⟨r', hsample⟩ := exists_sampleProgram_eq (samplesProgram n s) n
    exact ⟨r', by rw [samplesProgram, hsample, hn, renderSample_setRet, setRet_setRet, State.renderSamples]⟩

theorem render_eq_renderProgram (n : Nat) : s.render n = { renderProgram n s with ret := s.ret } := by
  obtain ⟨r, hsamples⟩ := exists_samplesProgram_eq (s.setMemory Memory.empty).refreshActive n
  rw [renderProgram, foldl_refreshOne_voiceOrder, hsamples, ← render_ret s n]
  rfl

end Program

/-! ## A render call without an active voice (46_host_render.md R375) -/

/-- A legal output level is finite (10_state.md R70, P15). -/
theorem isFinite_outputLevel {s : State} (h : paramValueBad 15 (s.param 15) = false) : isFinite s.outputLevel = true := by
  simp only [paramValueBad, Bool.or_eq_false_iff] at h
  obtain ⟨⟨hnan, hlo⟩, hhi⟩ := h
  exact F32.isFinite_of_bounds hnan hlo hhi (by decide +kernel) (by decide +kernel)

theorem mixVoices_of_idle {s : State} (h : ∀ v, (s.voice v).env.isActive = false) (nz : F32) :
    s.mixVoices nz = { state := s, l := K.zero, r := K.zero } := by
  have hkeep : ∀ vs : List VoiceIdx, vs.foldl (Mix.addVoice nz) { state := s, l := K.zero, r := K.zero } =
      { state := s, l := K.zero, r := K.zero } := by
    intro vs
    induction vs with
    | nil => rfl
    | cons v vs ih => rw [List.foldl_cons, addVoice_of_inactive (Bool.eq_false_iff.mp (h v)), ih]
  exact hkeep voiceOrder

/-- No voice is active, and the output level is `level`. -/
structure IdleAt (level : F32) (s : State) : Prop where
  inactive : ∀ v, (s.voice v).env.isActive = false
  outputLevel : s.outputLevel = level

/-- Rendering keeps an inactive voice whole. -/
theorem IdleAt.of_renderKept {level : F32} {s t : State} (h : IdleAt level s) (k : RenderKept s t) : IdleAt level t where
  inactive v := by rw [(k.voice v).inactive (h.inactive v), h.inactive v]
  outputLevel := (k.param 15).trans h.outputLevel

/-- Sample `i` of an idle block adds to each channel the product of the sum +0.0 with the output level. -/
theorem IdleAt.renderSample_words {level : F32} {s : State} (h : IdleAt level s) {ch : Channel} {i : Nat}
    (hlen : (s.memory.words ch).length = i) :
    (s.renderSample i).memory.words ch = s.memory.words ch ++ [K.zero.mul level] := by
  have htick : IdleAt level s.lfoTick.noiseNext := h.of_renderKept ((renderKept_lfoTick s).trans (renderKept_noiseNext _))
  rw [renderSample_eq_store, mixVoices_of_idle htick.inactive, h.outputLevel, Mix.store, State.setMemory_memory,
    State.noiseNext, State.setSeed_memory, lfoTick_memory]
  subst hlen
  cases ch <;> simp

theorem IdleAt.renderSamples_words {level : F32} {s : State} (h : IdleAt level s) {ch : Channel}
    (hempty : s.memory.words ch = []) (n : Nat) :
    (s.renderSamples n).memory.words ch = List.replicate n (K.zero.mul level) := by
  induction n with
  | zero => exact hempty
  | succ n ih =>
    have hn := h.of_renderKept (renderKept_renderSamples s n)
    rw [State.renderSamples, hn.renderSample_words (by rw [ih, List.length_replicate]), ih, List.replicate_succ']

/-- The words of an idle block are zeros: the clamp keeps a zero of either sign. -/
theorem IdleAt.eq_zero_of_mem_render {level : F32} {s : State} (h : IdleAt level s) (hlevel : isFinite level = true)
    {n : Nat} {ch : Channel} {y : F32} (hy : y ∈ (s.render n).memory.words ch) : ∃ t, y = F32.zero t := by
  obtain ⟨t, hword⟩ := F32.zero_mul_finite false hlevel
  have hstart := h.of_renderKept ((renderKept_setMemory s Memory.empty).trans (renderKept_refreshActive _))
  rw [render_words_eq_clampedChannel, hstart.renderSamples_words (by cases ch <;> rfl), F32.zero_eq, hword] at hy
  rcases mem_clampedChannel hy with rfl | ⟨x, hx, -, rfl⟩
  · exact ⟨false, F32.zero_eq⟩
  · exact ⟨t, by rw [List.eq_of_mem_replicate hx, clampWord_zero]⟩

end Sys2Proof.Machine

/-! ## The obligations -/

namespace Sys2Proof

open Sys2Proof.Machine Sys2Proof.Safety

/-- Settles O45: the clamp writes the channel's clamped words and nothing else; clamped words are not catastrophic and clamp to
themselves. -/
theorem safetyClampSilencesOrLimits : Obligations.SafetyClampSilencesOrLimits := by
  intro s ch
  refine ⟨s.safetyClamp ch, rfl, ?_, fun other hother i => Memory.outRead_safetyClamp_ne s.memory hother i, rfl, ?_⟩
  · rw [State.safetyClamp, State.setMemory_memory, Memory.safetyClamp_eq, Memory.words_setWords_same]
    exact clampedWords_of_clamp _
  · exact congrArg (fun m => Host.Outcome.next (s.setMemory m)) (Memory.safetyClamp_safetyClamp s.memory ch)

/-- Settles O48: operation by operation the program's state is the loop's but for the returned value; the words obey the law of
read after write. -/
theorem renderRunsTheSampleLoop : Obligations.RenderRunsTheSampleLoop := by
  intro s n
  refine ⟨fun hready => if_neg (Bool.eq_false_iff.mp hready),
    fun hready => ⟨s.render n, execHostRender_ready hready n, render_eq_renderProgram s n⟩, fun m ch i x hi => ?_⟩
  exact ⟨m.outRead_outWrite_same ch i x hi, fun c j hne => m.outRead_outWrite_ne ch c i j x hne hi⟩

/-- Settles O49: the loop appends one word per sample to each channel, and the clamp keeps their number and bounds each. -/
theorem renderedWordsAreBounded : Obligations.RenderedWordsAreBounded := by
  intro s n
  refine ⟨fun hready => ⟨s.render n, execHostRender_ready hready n, fun ch => ?_⟩, fun ch => ⟨_, rfl, rfl⟩⟩
  have hlength := render_words_length s n ch
  refine ⟨hlength, fun i hi => ⟨_, List.getElem?_eq_getElem (hi.trans_eq hlength.symm), ?_⟩⟩
  exact isUnitWord_of_mem_render (List.getElem_mem _)

/-- Settles O52: without an active voice the sums stay +0.0, and a legal output level is finite, so every word is a zero. -/
theorem idleBlockRendersZeros : Obligations.IdleBlockRendersZeros := by
  intro s n hready hinactive hlevel
  have hidle : IdleAt s.outputLevel s := ⟨hinactive, rfl⟩
  refine ⟨s.render n, execHostRender_ready hready n, fun ch => ⟨render_words_length s n ch, fun x hx => ?_⟩⟩
  obtain ⟨t, rfl⟩ := hidle.eq_zero_of_mem_render (isFinite_outputLevel hlevel) hx
  exact F32.zero_eq_zero t

end Sys2Proof
end

section
/-! SUPPORT AND OBLIGATIONS O41 TO O44, O46 AND O47: the host calls (46_host_render.md R371 to R376, R389, R390). First what each
check of operands refuses, then the statements. -/

namespace Sys2Proof.Machine

open Sys2Proof.Safety

/-! ## The checks (46_host_render.md R371, R389; 10_state.md R70) -/

theorem allocOperandsBad_iff (sampleRate : F32) (blockSize : Int) :
    allocOperandsBad sampleRate blockSize = true ↔
      sampleRate.isNaN = true ∨ sampleRate.lt K.sampleRateMin = true ∨ sampleRate.gt K.sampleRateMax = true ∨
        blockSize < 1 := by
  simp only [allocOperandsBad, Bool.or_eq_true, decide_eq_true_eq, or_assoc]

theorem setParamValueBad_iff (i : Fin 20) (x : F32) :
    (paramValueBad i x || switchValueBad i x) = true ↔
      x.isNaN = true ∨ x.lt (K.paramTable[i]).lo = true ∨ x.gt (K.paramTable[i]).hi = true ∨
        ((K.paramTable[i]).isSwitch = true ∧ x.eq K.zero = false ∧ x.eq K.one = false) := by
  simp only [paramValueBad, switchValueBad, Bool.or_eq_true, Bool.and_eq_true, Bool.not_eq_true', Bool.or_eq_false_iff,
    or_assoc]

theorem hasBeenAllocated_iff (s : State) :
    s.hasBeenAllocated = true ↔ s.engine.allocated = true ∨ s.engine.sampleRate.eq K.zero = false := by
  simp only [State.hasBeenAllocated, Bool.or_eq_true, Bool.not_eq_true']

theorem paramIndex_val (i : Fin 20) : paramIndex i.val = some i := by
  rw [paramIndex_of_range (by omega)]
  rfl

/-! ## SETPARAM (46_host_render.md R389) -/

variable {s : State} {x : F32}

theorem execHostSetParam_outOfRange {id : Int} (h : id < 0 ∨ 20 ≤ id) :
    execHostSetParam id x s = .next (s.refuse (.setParam id x)) := by
  unfold execHostSetParam
  rw [paramIndex_out_of_range (by omega)]

/-- SETPARAM of a parameter: the check decides between the refusal and the write. -/
theorem execHostSetParam_val (i : Fin 20) :
    execHostSetParam i.val x s =
      if paramValueBad i x || switchValueBad i x then .next (s.refuse (.setParam i.val x))
      else .next (if s.hasBeenAllocated then (s.setParam i x).derive else s.setParam i x) := by
  unfold execHostSetParam
  rw [paramIndex_val]
  rfl

end Sys2Proof.Machine

/-! ## The obligations -/

namespace Sys2Proof

open Sys2Proof.Machine Sys2Proof.Safety

/-- Settles O41: the check is R371's; an accepted ALLOC is the derivation of the state with the operands recorded, and a legal
sample rate is not 0.0. -/
theorem allocRecordsAndDerives : Obligations.AllocRecordsAndDerives := by
  intro s sampleRate blockSize bad
  refine ⟨fun hbad => if_pos ((allocOperandsBad_iff sampleRate blockSize).mpr hbad), fun hgood => ?_⟩
  have hlegal : ¬ allocOperandsBad sampleRate blockSize = true := fun h => hgood ((allocOperandsBad_iff _ _).mp h)
  have haccept : exec (.hostAlloc sampleRate blockSize) s = .next (s.hostAlloc sampleRate blockSize) := if_neg hlegal
  exact ⟨haccept, _, haccept, rfl, sampleRate_set_of_legal (Bool.eq_false_iff.mpr hlegal)⟩

/-- Settles O42: RESET asks for `allocated`, RENDER and MIDI for `ready`, and both are cleared. -/
theorem deallocThenRefuses : Obligations.DeallocThenRefuses := by
  intro s
  refine ⟨_, rfl, rfl, fun n bytes c hc => ?_⟩
  simp only [List.mem_cons, List.not_mem_nil, or_false] at hc
  rcases hc with rfl | rfl | rfl
  · exact ⟨rfl, rfl⟩
  · exact ⟨rfl, rfl⟩
  · exact ⟨rfl, execHostMidi_notReady rfl bytes⟩

/-- Settles O43: an accepted RESET resets each voice as voiceReset does and writes the registers of R373. -/
theorem resetIdlesTheBlock : Obligations.ResetIdlesTheBlock := by
  intro s
  refine ⟨fun hfree => if_neg (Bool.eq_false_iff.mp hfree), fun halloc => ⟨s.hostReset, if_pos halloc, rfl, fun v => ?_⟩⟩
  refine ⟨s.setVoice v (s.voice v).voiceReset, rfl, ?_⟩
  rw [State.voice_setVoice_same]
  exact State.voice_mapVoices s _ v

/-- Settles O44: each voice goes through R376's test of its activity. -/
theorem reclaimResetsInactiveVoices : Obligations.ReclaimResetsInactiveVoices := by
  intro s
  refine ⟨s.reclaim, rfl, voicesFrame_mapVoices s _, rfl, fun v => ?_⟩
  rw [State.reclaim, State.voice_mapVoices]
  split
  case isTrue hactive => exact if_pos hactive
  case isFalse hinactive => exact reclaimVoice_of_inactive (Bool.eq_false_iff.mpr hinactive)

/-- Settles O46: the coefficients are written out in the model as R390 and its mappings give them. -/
theorem deriveComputesEveryCoefficient : Obligations.DeriveComputesEveryCoefficient := fun _ => ⟨_, rfl, rfl⟩

/-- Settles O47: the ranges are read off the table; the check decides between the refusal and the write, and `hasBeenAllocated`
whether the derivation follows. -/
theorem setParamWritesOneRegister : Obligations.SetParamWritesOneRegister := by
  intro s id x refusal
  refine ⟨by decide +kernel, execHostSetParam_outOfRange, ?_⟩
  rintro i rfl p bad
  have hexec : exec (.hostSetParam i.val x) s = _ := execHostSetParam_val i
  rw [hexec]
  refine ⟨fun hbad => if_pos ((setParamValueBad_iff i x).mpr hbad), fun hgood => ?_, ?_⟩
  · rw [if_neg (mt (setParamValueBad_iff i x).mp hgood), apply_ite Host.Outcome.next]
    simp only [hasBeenAllocated_iff]
    rfl
  · split <;> exact ⟨_, rfl⟩

end Sys2Proof
end

section
/-! SUPPORT AND OBLIGATION O55: the block's invariant (46_host_render.md R374, R380, R390; 45_engine_midi.md R345). The clauses
about the slots are one predicate of a voice and the pedal; first what keeps it, then what keeps the invariant: the updates, the
MIDI rows, the host calls. -/

namespace Sys2Proof.Safety

open Sys2Proof.Machine

/-! ## Slots (10_state.md R31; 45_engine_midi.md R345) -/

/-- A slot's note and velocity are legal, and with the pedal up it is not marked SUSTAIN. -/
structure SlotLegal (pedal : Bool) (x : Voice) : Prop where
  noteRange : -1 ≤ x.note ∧ x.note ≤ 127
  velocityRange : x.velocity ≤ 127
  released : pedal = false → x.note ≠ -1

theorem SlotLegal.pedalDown {pedal : Bool} {x : Voice} (h : SlotLegal pedal x) : SlotLegal true x :=
  ⟨h.noteRange, h.velocityRange, fun hup => Bool.noConfusion hup⟩

theorem SlotLegal.of_eq {pedal : Bool} {x y : Voice} (h : SlotLegal pedal x) (hnote : y.note = x.note)
    (hvelocity : y.velocity = x.velocity) : SlotLegal pedal y :=
  ⟨hnote ▸ h.noteRange, hvelocity ▸ h.velocityRange, hnote ▸ h.released⟩

/-- A slot that holds a note number is unmarked. -/
theorem slotLegal_of_note {x : Voice} {note : Nat} (hx : x.note = note) (hnote : note ≤ 127) (hvelocity : x.velocity ≤ 127)
    (pedal : Bool) : SlotLegal pedal x :=
  ⟨by omega, hvelocity, fun _ => by omega⟩

theorem slotLegal_voiceReset (pedal : Bool) (x : Voice) : SlotLegal pedal x.voiceReset :=
  slotLegal_of_note (x := x.voiceReset) (note := 0) rfl (by decide) (Nat.zero_le _) pedal

theorem slotLegal_startedVoice (s : State) (x : Voice) (period : F32) {note velocity : Nat} (hnote : note ≤ 127)
    (hvelocity : velocity ≤ 127) (pedal : Bool) : SlotLegal pedal (s.startedVoice x period note velocity) := by
  obtain ⟨hn, hv, -⟩ := startedVoice_loaded s x period note velocity
  exact slotLegal_of_note hn hnote (hv.trans_le hvelocity) pedal

theorem SlotLegal.marked {x : Voice} {pedal : Bool} (h : SlotLegal pedal x) : SlotLegal true (x.setNote Config.sustain) :=
  ⟨show -1 ≤ Config.sustain ∧ Config.sustain ≤ 127 by decide, h.velocityRange, fun hup => Bool.noConfusion hup⟩

theorem SlotLegal.freed {x : Voice} {pedal : Bool} (h : SlotLegal pedal x) : SlotLegal false (x.voiceNoteOff.setNote 0) :=
  slotLegal_of_note (x := x.voiceNoteOff.setNote 0) (note := 0) rfl (by decide) h.velocityRange false

/-- A note-off marks a slot only with the pedal down. -/
theorem SlotLegal.of_noteOff {pedal : Bool} {x : Voice} (h : SlotLegal pedal x) (note : Int) :
    SlotLegal pedal (noteOffVoice pedal note x) := by
  by_cases hmatch : x.note = note
  · cases pedal with
    | true =>
      rw [noteOffVoice_marked hmatch]
      exact h.marked
    | false =>
      rw [noteOffVoice_released hmatch]
      exact h.freed
  · rw [noteOffVoice_other hmatch]
    exact h

/-- The note-off of the mark, run at a pedal-up, frees every marked slot. -/
theorem SlotLegal.of_pedalUp {pedal : Bool} {x : Voice} (h : SlotLegal pedal x) :
    SlotLegal false (noteOffVoice false (-1) x) := by
  by_cases hmarked : x.note = -1
  · rw [noteOffVoice_released hmarked]
    exact h.freed
  · rw [noteOffVoice_other hmarked]
    exact ⟨h.noteRange, h.velocityRange, fun _ => hmarked⟩

variable {s t : State}

theorem Inv.slotLegal (h : Inv s) (v : VoiceIdx) : SlotLegal s.engine.sustainPedal (s.voice v) := by
  obtain ⟨hlo, hhi, hvelocity⟩ := h.notesLegal v
  exact ⟨⟨hlo, hhi⟩, hvelocity, fun hup => h.sustainReleased hup v⟩

/-! ## Updates -/

/-- New slots and a new pedal, where the slots are legal with that pedal. -/
theorem Inv.setSlots (h : Inv s) {pedal : Bool} {voices : Vector Voice 8} (hslot : ∀ v : VoiceIdx, SlotLegal pedal voices[v]) :
    Inv { s.setSustainPedal pedal with voices := voices } :=
  { h with
    notesLegal := fun v => ⟨(hslot v).noteRange.1, (hslot v).noteRange.2, (hslot v).velocityRange⟩
    sustainReleased := fun hup v => (hslot v).released hup }

theorem Inv.mapVoices (h : Inv s) {pedal : Bool} {f : VoiceIdx → Voice → Voice}
    (hf : ∀ v, SlotLegal pedal (f v (s.voice v))) : Inv ((s.setSustainPedal pedal).mapVoices f) :=
  h.setSlots (voices := (s.mapVoices f).voices) fun v => by
    change SlotLegal pedal ((s.mapVoices f).voice v)
    rw [State.voice_mapVoices]
    exact hf v

theorem Inv.setVoice (h : Inv s) {v : VoiceIdx} {x : Voice} (hx : SlotLegal s.engine.sustainPedal x) :
    Inv (s.setVoice v x) := by
  refine h.setSlots (voices := (s.setVoice v x).voices) fun w => ?_
  change SlotLegal _ ((s.setVoice v x).voice w)
  rw [State.voice_setVoice]
  split
  · exact hx
  · exact h.slotLegal w

theorem Inv.refuse (h : Inv s) (c : Command) : Inv (s.refuse c) :=
  { h with
    recordKept := by
      rw [State.refuse_refused, State.refuse_firstRefused]
      split
      case isTrue hr => rw [← h.recordKept, hr]
      case isFalse => rfl }

/-! ## Notes and controllers (45_engine_midi.md R342 to R346) -/

theorem Inv.noteOff (h : Inv s) (note : Int) : Inv (s.noteOff note) :=
  h.mapVoices fun v => (h.slotLegal v).of_noteOff note

theorem Inv.sustainPedalChange (h : Inv s) (value : Nat) : Inv (s.sustainPedalChange value) := by
  by_cases hdown : 64 ≤ value
  · rw [sustainPedalChange_down hdown, decide_eq_true hdown]
    exact h.setSlots fun v => (h.slotLegal v).pedalDown
  · rw [sustainPedalChange_up hdown, decide_eq_false hdown]
    exact h.mapVoices fun v => (h.slotLegal v).of_pedalUp

theorem Inv.panic (h : Inv s) : Inv s.panic :=
  h.mapVoices (f := fun _ x => x.voiceReset) fun v => slotLegal_voiceReset false (s.voice v)

theorem Inv.controlChange (h : Inv s) (controller value : Nat) : Inv (s.controlChange controller value) := by
  unfold State.controlChange
  split
  · exact h.sustainPedalChange value
  · split
    · exact h.panic
    · exact h

theorem Inv.setPitchBend (h : Inv s) (x : F32) : Inv (s.setPitchBend x) := { h with }

theorem usedVelocity_le (s : State) {velocity : Nat} (h : velocity ≤ 127) : s.usedVelocity velocity ≤ 127 := by
  unfold State.usedVelocity
  split
  · decide
  · exact h

theorem Inv.noteOn (h : Inv s) {note velocity : Nat} (hnote : note ≤ 127) (hvelocity : velocity ≤ 127)
    (hrun : s.noteOn note velocity = .next t) : Inv t := by
  rcases startVoice_cases s s.noteOnVoice note (s.usedVelocity velocity) with ⟨p, -, hp⟩ | ⟨-, hp⟩
  · cases hp.symm.trans hrun
    exact h.setVoice (slotLegal_startedVoice s _ p hnote (usedVelocity_le s hvelocity) _)
  · cases hp.symm.trans hrun

/-! ## Messages -/

/-- A message is refused, or what its row runs decides. -/
theorem Inv.midiCommand (h : Inv s) {bytes : List Byte} {run : State → Host.Outcome State Fault Refusal}
    (hexec : midiCommand bytes run s = .next t) (hrun : run s = .next t → Inv t) : Inv t := by
  cases hr : s.engine.ready with
  | true => exact hrun ((midiCommand_ready hr bytes run).symm.trans hexec)
  | false =>
    cases (midiCommand_notReady hr bytes run).symm.trans hexec
    exact h.refuse _

/-- The MIDI rows: the instructions that have an encoding. -/
theorem Inv.row (h : Inv s) {i : Instr} (hrow : (encode i).isSome = true) (hexec : exec i s = .next t) : Inv t := by
  cases i
  case midiIgnData | midiIgnPolyPressure | midiIgnProgram | midiIgnChannelPressure | midiIgnSystem =>
    refine h.midiCommand (run := noEffect) hexec fun hrun => ?_
    cases hrun
    exact h
  case midiNoteOff | midiNoteOnV0 =>
    refine h.midiCommand (run := fun u => .next (u.noteOff _)) hexec fun hrun => ?_
    cases hrun
    exact h.noteOff _
  case midiNoteOn c d1 d2 =>
    exact h.midiCommand (run := fun u => u.noteOn _ _) hexec (h.noteOn (Nat.le_of_lt_succ d1.isLt) (Nat.le_of_lt_succ d2.isLt))
  case midiCcSustain | midiCcPanic | midiCcOther =>
    refine h.midiCommand (run := fun u => .next (u.controlChange _ _)) hexec fun hrun => ?_
    cases hrun
    exact h.controlChange _ _
  case midiPitchBend =>
    refine h.midiCommand (run := fun u => .next (u.setPitchBend _)) hexec fun hrun => ?_
    cases hrun
    exact h.setPitchBend _
  all_goals cases hrow

theorem Inv.hostMidi (h : Inv s) {bytes : List Byte} (hexec : execHostMidi bytes s = .next t) : Inv t := by
  rcases execHostMidi_cases bytes s with ⟨-, e⟩ | ⟨-, -, e⟩ | ⟨-, w, -, e⟩
  · cases e.symm.trans hexec
    exact h.refuse _
  · cases e.symm.trans hexec
    exact h
  · exact h.row (encode_decodeWord_isSome w) (e.symm.trans hexec)

/-! ## Settings (46_host_render.md R371, R389 to R391) -/

theorem deriveNumVoices_cases (s : State) : s.deriveNumVoices = 1 ∨ s.deriveNumVoices = 8 := by
  unfold State.deriveNumVoices
  split
  · exact .inr rfl
  · exact .inl rfl

/-- The derivation makes the coefficients current whatever they were. -/
theorem derive_current (s : State) :
    s.derive.derived = s.derive.deriveCoefficients ∧ s.derive.engine.numVoices = s.derive.deriveNumVoices := ⟨rfl, rfl⟩

theorem Inv.hostAlloc (h : Inv s) {sr : F32} {bs : Int} (hlegal : allocOperandsBad sr bs = false) : Inv (s.hostAlloc sr bs) :=
  { h with
    readyAllocated := fun _ => rfl
    allocatedLegal := fun _ => hlegal
    derivedCurrent := fun _ => derive_current (s.setEngine _)
    numVoicesLegal := deriveNumVoices_cases s }

/-- DEALLOC leaves the sample rate, so what held after the first ALLOC holds on. -/
theorem Inv.hostDealloc (h : Inv s) : Inv (s.setEngine { s.engine with allocated := false, ready := false }) := by
  have hremembered : (s.setEngine { s.engine with allocated := false, ready := false }).hasBeenAllocated = true →
      s.hasBeenAllocated = true := fun hset =>
    (hasBeenAllocated_iff s).mpr (((hasBeenAllocated_iff _).mp hset).imp (fun hfalse => Bool.noConfusion hfalse) id)
  exact { h with
    readyAllocated := fun hready => Bool.noConfusion hready
    allocatedLegal := fun hset => h.allocatedLegal (hremembered hset)
    derivedCurrent := fun hset => h.derivedCurrent (hremembered hset) }

theorem Inv.paramsLegal_setParam (h : Inv s) {i : Fin 20} {x : F32} (hvalue : paramValueBad i x = false)
    (hswitch : switchValueBad i x = false) (j : Fin 20) :
    paramValueBad j ((s.setParam i x).param j) = false ∧ switchValueBad j ((s.setParam i x).param j) = false := by
  by_cases hj : j = i
  · rw [hj, State.param_setParam_same]
    exact ⟨hvalue, hswitch⟩
  · rw [State.param_setParam_ne s i j x hj]
    exact h.paramsLegal j

/-- A legal write; the coefficients follow it once an ALLOC has been. -/
theorem Inv.setParam (h : Inv s) {i : Fin 20} {x : F32} (hvalue : paramValueBad i x = false)
    (hswitch : switchValueBad i x = false) :
    Inv (if s.hasBeenAllocated then (s.setParam i x).derive else s.setParam i x) := by
  split
  case isTrue =>
    exact { h with
      paramsLegal := h.paramsLegal_setParam hvalue hswitch
      derivedCurrent := fun _ => derive_current (s.setParam i x)
      numVoicesLegal := deriveNumVoices_cases (s.setParam i x) }
  case isFalse hnever =>
    exact { h with
      paramsLegal := h.paramsLegal_setParam hvalue hswitch
      derivedCurrent := fun hset => absurd hset hnever }

/-! ## RESET and RENDER (46_host_render.md R373, R375) -/

theorem Inv.hostReset (h : Inv s) (halloc : s.engine.allocated = true) : Inv s.hostReset :=
  have hslots : Inv s.panic := h.panic
  { hslots with
    lfoStepRange := show (0 : Int) ≤ 0 ∧ (0 : Int) ≤ 32 by decide
    readyAllocated := fun _ => halloc }

/-- A tick restarts the counter at 32, else it goes down by one: it stays in its range, however many ticks. -/
theorem render_step_range (n : Nat) (h : 0 ≤ s.lfo.step ∧ s.lfo.step ≤ 32) :
    0 ≤ (s.render n).lfo.step ∧ (s.render n).lfo.step ≤ 32 := by
  rw [render_step]
  refine Function.Iterate.rec (fun k : Int => 0 ≤ k ∧ k ≤ 32) h (fun k hk => ?_) n
  split <;> omega

theorem slotLegal_render {pedal : Bool} {v : VoiceIdx} (h : SlotLegal pedal (s.voice v)) (n : Nat) :
    SlotLegal pedal ((s.render n).voice v) := by
  have hkept := (renderKept_loop s n).voice v
  rw [render_voice]
  rcases reclaimVoice_cases (((s.setMemory Memory.empty).refreshActive.renderSamples n).voice v) with e | e
  all_goals
    rw [e]
    exact h.of_eq hkept.note hkept.velocity

/-- Outside the slots, the LFO, the seed, the words and PERIOD_LOW a render call writes nothing. -/
theorem render_frame (s : State) (n : Nat) :
    s.render n =
      { s with
        voices := (s.render n).voices, lfo := (s.render n).lfo, seed := (s.render n).seed,
        periodLow := (s.render n).periodLow, memory := (s.render n).memory } := by
  rw [← render_engine s n, ← render_derived s n, ← render_params s n, ← render_refused s n, ← render_firstRefused s n,
    ← render_port s n, ← render_ret s n]

theorem Inv.render (h : Inv s) (n : Nat) : Inv (s.render n) := by
  have hslots : Inv { s with voices := (s.render n).voices } := h.setSlots fun v => slotLegal_render (h.slotLegal v) n
  rw [render_frame]
  exact { hslots with
    memoryWf := wf_render s n
    outputBounded := fun ch x hx => isUnitWord_of_mem_render hx
    lfoStepRange := render_step_range n h.lfoStepRange }

/-! ## Every command -/

/-- A command that a check accepts or refuses. -/
theorem inv_of_ite {p : Prop} [Decidable p] {u w : State}
    (hexec : (if p then .next u else .next w : Host.Outcome State Fault Refusal) = .next t) (hu : p → Inv u)
    (hw : ¬ p → Inv w) : Inv t := by
  split at hexec
  case isTrue hp =>
    cases hexec
    exact hu hp
  case isFalse hp =>
    cases hexec
    exact hw hp

theorem Inv.command (h : Inv s) (c : Command) (hexec : exec c.toInstr s = .next t) : Inv t := by
  cases c with
  | alloc sr bs =>
    exact inv_of_ite hexec (fun _ => h.refuse _) fun hlegal => h.hostAlloc (Bool.eq_false_iff.mpr hlegal)
  | dealloc =>
    cases hexec
    exact h.hostDealloc
  | reset => exact inv_of_ite hexec h.hostReset fun _ => h.refuse _
  | render n => exact inv_of_ite hexec (fun _ => h.render n) fun _ => h.refuse _
  | setParam id x =>
    rcases execHostSetParam_cases id x s with ⟨e, -⟩ | ⟨i, -, hvalue, hswitch, e⟩
    · cases e.symm.trans hexec
      exact h.refuse _
    · cases e.symm.trans hexec
      exact h.setParam hvalue hswitch
  | midi bytes => exact h.hostMidi hexec

/-- What waits on the port is in no clause. -/
theorem Inv.setPort (h : Inv s) (cs : List Command) : Inv (s.setPort cs) := { h with }

end Sys2Proof.Safety

/-! ## The obligation -/

namespace Sys2Proof

open Sys2Proof.Machine Sys2Proof.Safety

/-- Settles O55: a step does nothing or executes one host command, and each of the six keeps the invariant. -/
theorem stepKeepsTheInvariant : Obligations.StepKeepsTheInvariant := by
  intro s t h hstep
  rcases step_cases hstep with ⟨-, rfl⟩ | ⟨c, rest, -, hexec⟩
  · exact h
  · exact (h.setPort rest).command c hexec

end Sys2Proof
end

section
/-! SUPPORT AND OBLIGATIONS O53 AND O54: the state after power-on (70_reset_and_hazards.md R430). -/

namespace Sys2Proof.Machine

/-- Every power-on value is in its parameter's legal range, and a switch's is 0.0 or 1.0 (10_state.md R70). -/
theorem powerOn_legal (i : Fin 20) :
    paramValueBad i (K.paramTable[i]).powerOn = false ∧ switchValueBad i (K.paramTable[i]).powerOn = false := by
  revert i
  decide +kernel

/-- The sample rate is unset at power-on, so no ALLOC has been. -/
theorem hasBeenAllocated_reset : State.reset.hasBeenAllocated = false := by decide +kernel

end Sys2Proof.Machine

/-! ## The obligations -/

namespace Sys2Proof

open Sys2Proof.Machine Sys2Proof.Safety

/-- Settles O53: each register by its definition, the parameters by the table's column. -/
theorem powerOnStateIsAsListed : Obligations.PowerOnStateIsAsListed :=
  ⟨State.reset_voice, rfl, rfl, rfl, by decide +kernel, rfl, rfl, rfl⟩

/-- Settles O54: no word, no ALLOC and no record yet; the parameters hold legal defaults and every slot is idle. -/
theorem invariantHoldsAtPowerOn : Obligations.InvariantHoldsAtPowerOn where
  memoryWf := rfl
  outputBounded := fun ch _ hx => by cases ch <;> cases hx
  lfoStepRange := by decide
  paramsLegal := fun i => by
    rw [State.reset_param]
    exact powerOn_legal i
  readyAllocated := fun hready => hready
  allocatedLegal := fun hset => Bool.noConfusion (hasBeenAllocated_reset.symm.trans hset)
  derivedCurrent := fun hset => Bool.noConfusion (hasBeenAllocated_reset.symm.trans hset)
  numVoicesLegal := .inr rfl
  notesLegal := fun v => by
    rw [State.reset_voice]
    decide
  sustainReleased := fun _ v => by
    rw [State.reset_voice]
    decide
  recordKept := rfl

end Sys2Proof
end

section
/-! SUPPORT AND OBLIGATION O57: refusals (60_exceptions.md R406, R407). First the five things a MIDI row can run, then what keeps
the REFUSED record, then a refused and an accepted command. -/

namespace Sys2Proof.Machine

open Sys2Proof.Safety

/-- What a MIDI row runs in a ready block (45_engine_midi.md R330 to R335). -/
inductive RowRun : (State → Host.Outcome State Fault Refusal) → Prop
  | noEffect : RowRun noEffect
  | noteOff (note : Int) : RowRun fun s => .next (s.noteOff note)
  | noteOn (note velocity : Nat) : RowRun fun s => s.noteOn note velocity
  | controlChange (controller value : Nat) : RowRun fun s => .next (s.controlChange controller value)
  | setPitchBend (x : F32) : RowRun fun s => .next (s.setPitchBend x)

/-- The rows are the instructions that have an encoding. -/
theorem exists_rowRun {i : Instr} {m : List Byte} (hrow : encode i = some m) :
    ∃ run, RowRun run ∧ exec i = midiCommand m run := by
  cases i
  case midiIgnData | midiIgnPolyPressure | midiIgnProgram | midiIgnChannelPressure | midiIgnSystem =>
    cases hrow
    exact ⟨_, .noEffect, rfl⟩
  case midiNoteOff | midiNoteOnV0 =>
    cases hrow
    exact ⟨_, .noteOff _, rfl⟩
  case midiNoteOn =>
    cases hrow
    exact ⟨_, .noteOn _ _, rfl⟩
  case midiCcSustain | midiCcPanic | midiCcOther =>
    cases hrow
    exact ⟨_, .controlChange _ _, rfl⟩
  case midiPitchBend =>
    cases hrow
    exact ⟨_, .setPitchBend _, rfl⟩
  all_goals cases hrow

/-- What a message runs in any ready block: its row, or nothing where its length is illegal (30_encoding.md R131). -/
theorem exists_rowRun_hostMidi (bytes : List Byte) : ∃ run, RowRun run ∧ execHostMidi bytes = midiCommand bytes run := by
  cases hword : wordOfMessage bytes with
  | error r => exact ⟨_, .noEffect, by funext s; simp only [execHostMidi, hword]⟩
  | ok w =>
    obtain ⟨m, hm⟩ := Option.isSome_iff_exists.mp (encode_decodeWord_isSome w)
    obtain ⟨run, hrun, hexec⟩ := exists_rowRun hm
    refine ⟨run, hrun, funext fun s => ?_⟩
    cases hready : s.engine.ready with
    | false => rw [execHostMidi_notReady hready, midiCommand_notReady hready]
    | true =>
      calc
        execHostMidi bytes s = runWord w s := by simp only [execHostMidi, hword, midiCommand_ready hready]
        _ = midiCommand m run s := by rw [runWord_eq_exec, hexec]
        _ = midiCommand bytes run s := by rw [midiCommand_ready hready, midiCommand_ready hready]

/-! ## The REFUSED record (10_state.md R80) -/

/-- REFUSED and the recorded command are as they were. -/
def SameRecord (s t : State) : Prop := t.refused = s.refused ∧ t.firstRefused = s.firstRefused

variable {s t : State}

theorem sameRecord_controlChange (s : State) (controller value : Nat) :
    SameRecord s (s.controlChange controller value) := by
  unfold State.controlChange
  split
  · have hframe := (voicesFrame_sustainPedalChange s value).shared
    exact ⟨hframe.refused, hframe.firstRefused⟩
  · split <;> exact ⟨rfl, rfl⟩

theorem sameRecord_noteOn {note velocity : Nat} (h : s.noteOn note velocity = .next t) : SameRecord s t := by
  rcases startVoice_cases s s.noteOnVoice note (s.usedVelocity velocity) with ⟨p, -, hp⟩ | ⟨-, hp⟩
  · cases hp.symm.trans h
    exact ⟨rfl, rfl⟩
  · cases hp.symm.trans h

/-- No row refuses anything once it runs. -/
theorem RowRun.sameRecord {run : State → Host.Outcome State Fault Refusal} (hrun : RowRun run) (h : run s = .next t) :
    SameRecord s t := by
  cases hrun with
  | noteOn => exact sameRecord_noteOn h
  | controlChange =>
    cases h
    exact sameRecord_controlChange s _ _
  | _ =>
    cases h
    exact ⟨rfl, rfl⟩

/-! ## A refused and an accepted command -/

/-- The checks that `refuses` names are those that the meaning of the command runs. -/
theorem exec_of_refuses {c : Command} (h : refuses s c = true) : exec c.toInstr s = .next (s.refuse c) := by
  cases c with
  | alloc sr bs => exact if_pos h
  | dealloc => cases h
  | reset => exact if_neg (by simpa [refuses] using h)
  | render n => exact if_neg (by simpa [refuses] using h)
  | setParam id x =>
    rcases execHostSetParam_cases id x s with ⟨hexec, -⟩ | ⟨i, hi, hvalue, hswitch, -⟩
    · exact hexec
    · simp [refuses, hi, hvalue, hswitch] at h
  | midi bytes => exact execHostMidi_notReady (by simpa [refuses] using h) bytes

theorem sameRecord_of_accepted {c : Command} (h : refuses s c = false) (hexec : exec c.toInstr s = .next t) :
    SameRecord s t := by
  cases c with
  | alloc sr bs =>
    cases (if_neg (Bool.eq_false_iff.mp h) : exec (.hostAlloc sr bs) s = _).symm.trans hexec
    exact ⟨rfl, rfl⟩
  | dealloc =>
    cases hexec
    exact ⟨rfl, rfl⟩
  | reset =>
    cases (if_pos (by simpa [refuses] using h) : exec .hostReset s = _).symm.trans hexec
    exact ⟨rfl, rfl⟩
  | render n =>
    cases (execHostRender_ready (by simpa [refuses] using h) n).symm.trans hexec
    exact ⟨render_refused s n, render_firstRefused s n⟩
  | setParam id x =>
    rcases execHostSetParam_cases id x s with ⟨-, hrefused⟩ | ⟨i, -, -, -, haccepted⟩
    · exact Bool.noConfusion (h.symm.trans hrefused)
    · cases haccepted.symm.trans hexec
      split <;> exact ⟨rfl, rfl⟩
  | midi bytes =>
    obtain ⟨run, hrun, hmidi⟩ := exists_rowRun_hostMidi bytes
    have hready : s.engine.ready = true := by simpa [refuses] using h
    refine hrun.sameRecord ?_
    rw [← midiCommand_ready hready bytes run, ← hmidi]
    exact hexec

end Sys2Proof.Machine

/-! ## The obligation -/

namespace Sys2Proof

open Sys2Proof.Machine

/-- Settles O57: command by command, the refusal checks decide between `refuse` and a meaning that keeps the record. -/
theorem refusalHasNoOtherEffect : Obligations.RefusalHasNoOtherEffect :=
  fun _ _ => ⟨exec_of_refuses, fun _ => sameRecord_of_accepted⟩

end Sys2Proof
end

section
/-! SUPPORT AND OBLIGATION O60: two runs from RESET (70_reset_and_hazards.md R431). RESET keeps some registers of the previous
run, and an idle voice holds them until startVoice writes them. States that differ in them alone are said to sound alike; first
that relation, then every operation keeps it, from the voice up to the render call, then every command, then a run. -/

namespace Sys2Proof.Machine

open Sys2Proof.Safety

/-! ## Voices and states that sound alike -/

/-- The voice with another's registers of those that RESET keeps (R431), and of the multiplier, which a release loads from one
of them. -/
def Voice.withKept (x z : Voice) : Voice :=
  { x with
    period := z.period
    osc1 := { x.osc1 with period := z.osc1.period, amplitude := z.osc1.amplitude, modulation := z.osc1.modulation }
    osc2 := { x.osc2 with period := z.osc2.period, amplitude := z.osc2.amplitude, modulation := z.osc2.modulation }
    env :=
      { z.env with
        level := x.env.level
        target := x.env.target } }

/-- Equal voices, or inactive ones that differ only in what RESET keeps. -/
inductive Voice.SoundsLike (x : Voice) : Voice → Prop
  | refl : SoundsLike x x
  | idle (z : Voice) (hx : x.env.isActive = false) : SoundsLike x (x.withKept z)

/-- The state with another's voices, records, commands to come and returned value: what two runs may differ in. -/
def State.withUnheard (s u : State) : State :=
  { s with
    voices := u.voices
    periodLow := u.periodLow
    refused := u.refused
    firstRefused := u.firstRefused
    port := u.port
    ret := u.ret }

/-- States that agree outside the voices, the records, the commands to come and the returned value, and whose voices sound
alike. -/
inductive State.SoundsLike (s : State) : State → Prop
  | intro (u : State) (h : ∀ v, (s.voice v).SoundsLike (u.voice v)) : SoundsLike s (s.withUnheard u)

theorem State.SoundsLike.voice {s t : State} (h : s.SoundsLike t) (v : VoiceIdx) : (s.voice v).SoundsLike (t.voice v) := by
  cases h with
  | intro u h => exact h v

theorem State.SoundsLike.engine {s t : State} (h : s.SoundsLike t) : t.engine = s.engine := by cases h; rfl

theorem State.SoundsLike.seed {s t : State} (h : s.SoundsLike t) : t.seed = s.seed := by cases h; rfl

theorem State.SoundsLike.memory {s t : State} (h : s.SoundsLike t) : t.memory = s.memory := by cases h; rfl

theorem State.SoundsLike.sameSettings {s t : State} (h : s.SoundsLike t) : SameSettings s t := by
  cases h
  exact ⟨rfl, rfl, rfl, rfl, rfl, rfl⟩

/-! ## Operations of one voice -/

namespace Voice.SoundsLike

variable {x y : Voice}

theorem env_level (h : x.SoundsLike y) : y.env.level = x.env.level := by cases h <;> rfl

theorem env_target (h : x.SoundsLike y) : y.env.target = x.env.target := by cases h <;> rfl

theorem isActive (h : x.SoundsLike y) : y.env.isActive = x.env.isActive := by cases h <;> rfl

theorem eq_of_isActive (h : x.SoundsLike y) (hx : x.env.isActive = true) : y = x := by
  cases h with
  | refl => rfl
  | idle z hidle => exact Bool.noConfusion (hx.symm.trans hidle)

/-- What leaves inactive voices alone (44_voice.md R314) does not tell voices apart that sound alike. -/
theorem map_of_frozen {f : Voice → Voice} (hf : ∀ z : Voice, ¬ z.env.isActive = true → f z = z) (h : x.SoundsLike y) :
    (f x).SoundsLike (f y) := by
  cases h with
  | refl => exact .refl
  | idle z hx =>
    have hinactive : ¬ x.env.isActive = true := Bool.eq_false_iff.mp hx
    rw [hf x hinactive, hf (x.withKept z) hinactive]
    exact .idle z hx

/-- After a reset voices differ in what it keeps, whatever they were (44_voice.md R315). -/
theorem voiceReset (x y : Voice) : x.voiceReset.SoundsLike y.voiceReset :=
  .idle y.voiceReset (isActive_envReset x.env)

theorem noteOffVoice (h : x.SoundsLike y) (pedal : Bool) (note : Int) :
    (noteOffVoice pedal note x).SoundsLike (noteOffVoice pedal note y) := by
  cases h with
  | refl => exact .refl
  | idle z hx =>
    by_cases hnote : x.note = note
    · have hnote' : (x.withKept z).note = note := hnote
      cases pedal with
      | true =>
        rw [noteOffVoice_marked hnote, noteOffVoice_marked hnote']
        exact .idle z hx
      | false =>
        rw [noteOffVoice_released hnote, noteOffVoice_released hnote']
        exact .idle z.voiceNoteOff hx
    · have hnote' : ¬ (x.withKept z).note = note := hnote
      rw [noteOffVoice_other hnote, noteOffVoice_other hnote']
      exact .idle z hx

theorem reclaimVoice (h : x.SoundsLike y) : (reclaimVoice x).SoundsLike (reclaimVoice y) := by
  cases h with
  | refl => exact .refl
  | idle z hx =>
    have hz : (x.withKept z).env.isActive = false := hx
    rw [reclaimVoice_of_inactive hx, reclaimVoice_of_inactive hz]
    exact .idle (z.setEnv z.env.envReset) (isActive_envReset x.env)

/-- A start reads nothing that RESET keeps before it writes it (45_engine_midi.md R341). -/
theorem startedVoice (h : x.SoundsLike y) (s : State) (period : F32) (note velocity : Nat) :
    s.startedVoice y period note velocity = s.startedVoice x period note velocity := by
  cases h with
  | refl => rfl
  | idle z =>
    simp only [State.startedVoice, State.lockVoice]
    split <;> rfl

end Voice.SoundsLike

/-! ## Operations of the state -/

namespace State.SoundsLike

variable {s t : State}

theorem setVoice (h : s.SoundsLike t) (v : VoiceIdx) {x y : Voice} (hx : x.SoundsLike y) :
    (s.setVoice v x).SoundsLike (t.setVoice v y) := by
  cases h with
  | intro u h =>
    refine .intro (u.setVoice v y) fun w => ?_
    rw [State.voice_setVoice, State.voice_setVoice]
    split
    · exact hx
    · exact h w

theorem mapVoices (h : s.SoundsLike t) {f : VoiceIdx → Voice → Voice}
    (hf : ∀ v x y, x.SoundsLike y → (f v x).SoundsLike (f v y)) : (s.mapVoices f).SoundsLike (t.mapVoices f) := by
  cases h with
  | intro u h =>
    refine .intro (u.mapVoices f) fun w => ?_
    rw [State.voice_mapVoices, State.voice_mapVoices]
    exact hf w _ _ (h w)

/-- An update that leaves the voices alone, and whose effect on what is heard does not depend on what is not. -/
theorem update (h : s.SoundsLike t) {f : State → State} (hvoice : ∀ s v, (f s).voice v = s.voice v)
    (hf : ∀ s u, f (s.withUnheard u) = (f s).withUnheard (f u)) : (f s).SoundsLike (f t) := by
  cases h with
  | intro u h =>
    rw [hf]
    refine .intro (f u) fun v => ?_
    rw [hvoice, hvoice]
    exact h v

theorem setEngine (h : s.SoundsLike t) (e : Engine) : (s.setEngine e).SoundsLike (t.setEngine e) :=
  h.update (f := fun s => s.setEngine e) (fun _ _ => rfl) fun _ _ => rfl

theorem setSustainPedal (h : s.SoundsLike t) (b : Bool) : (s.setSustainPedal b).SoundsLike (t.setSustainPedal b) :=
  h.update (f := fun s => s.setSustainPedal b) (fun _ _ => rfl) fun _ _ => rfl

theorem setPitchBend (h : s.SoundsLike t) (x : F32) : (s.setPitchBend x).SoundsLike (t.setPitchBend x) :=
  h.update (f := fun s => s.setPitchBend x) (fun _ _ => rfl) fun _ _ => rfl

theorem setSeed (h : s.SoundsLike t) (w : Word32) : (s.setSeed w).SoundsLike (t.setSeed w) :=
  h.update (f := fun s => s.setSeed w) (fun _ _ => rfl) fun _ _ => rfl

theorem setMemory (h : s.SoundsLike t) (m : Memory) : (s.setMemory m).SoundsLike (t.setMemory m) :=
  h.update (f := fun s => s.setMemory m) (fun _ _ => rfl) fun _ _ => rfl

theorem raisePeriodLow (h : s.SoundsLike t) (b : Bool) : (s.raisePeriodLow b).SoundsLike (t.raisePeriodLow b) :=
  h.update (f := fun s => s.raisePeriodLow b) (fun _ _ => rfl) fun _ _ => rfl

/-! ### Notes and controllers (45_engine_midi.md R336 to R347) -/

theorem noteOff (h : s.SoundsLike t) (note : Int) : (s.noteOff note).SoundsLike (t.noteOff note) := by
  rw [State.noteOff, State.noteOff, h.engine]
  exact h.mapVoices fun _ _ _ hx => hx.noteOffVoice _ _

theorem controlChange (h : s.SoundsLike t) (controller value : Nat) :
    (s.controlChange controller value).SoundsLike (t.controlChange controller value) := by
  have hpedal : (s.sustainPedalChange value).SoundsLike (t.sustainPedalChange value) := by
    by_cases hdown : 64 ≤ value
    · rw [sustainPedalChange_down hdown, sustainPedalChange_down hdown]
      exact h.setSustainPedal _
    · rw [sustainPedalChange_up hdown, sustainPedalChange_up hdown]
      exact (h.setSustainPedal _).noteOff _
  have hpanic : s.panic.SoundsLike t.panic :=
    (h.mapVoices fun _ x y _ => Voice.SoundsLike.voiceReset x y).setSustainPedal false
  unfold State.controlChange
  split
  · exact hpedal
  · split
    · exact hpanic
    · exact h

/-- The search reads levels and targets, which voices that sound alike share. -/
theorem noteOnVoice (h : s.SoundsLike t) : t.noteOnVoice = s.noteOnVoice := by
  have hstep : t.searchStep = s.searchStep := by
    funext best v
    unfold State.searchStep Env.isInAttack
    rw [(h.voice v).env_level, (h.voice v).env_target]
  rw [State.noteOnVoice, State.noteOnVoice, h.engine, State.findFreeVoice, State.findFreeVoice, hstep]

/-! ### The render call (46_host_render.md R375 to R379) -/

theorem lfoTick (h : s.SoundsLike t) : s.lfoTick.SoundsLike t.lfoTick := by
  have hlfo : ∀ l : Lfo, (s.setLfo l).SoundsLike (t.setLfo l) := fun l =>
    h.update (f := fun s => s.setLfo l) (fun _ _ => rfl) fun _ _ => rfl
  have hticked : t.lfoTicked = s.lfoTicked := by cases h; rfl
  have hnow : t.lfo = s.lfo := by cases h; rfl
  by_cases htick : s.lfo.step - 1 ≤ 0
  · rw [lfoTick_of_tick htick, lfoTick_of_tick (s := t) (hnow ▸ htick), hticked]
    have hsame : (t.setLfo s.lfoTicked).tickVoice = (s.setLfo s.lfoTicked).tickVoice := by cases h; rfl
    rw [hsame]
    exact (hlfo _).mapVoices fun _ _ _ hx => hx.map_of_frozen fun _ => tickVoice_of_inactive
  · rw [lfoTick_of_not_tick htick, lfoTick_of_not_tick (s := t) (hnow ▸ htick), hnow]
    exact hlfo _

theorem noiseNext (h : s.SoundsLike t) : s.noiseNext.SoundsLike t.noiseNext := by
  rw [State.noiseNext, State.noiseNext, h.seed]
  exact h.setSeed _

theorem refreshActive (h : s.SoundsLike t) : s.refreshActive.SoundsLike t.refreshActive := by
  have hsame : t.refreshIfActive = s.refreshIfActive := by cases h; rfl
  rw [refreshActive_eq_mapVoices, refreshActive_eq_mapVoices, hsame]
  exact h.mapVoices fun _ _ _ hx => hx.map_of_frozen (f := s.refreshIfActive) fun _ hz => if_neg hz

end State.SoundsLike

/-- Sums of a sample under way that are equal, in states that sound alike. -/
structure Mix.SoundsLike (m k : Mix) : Prop where
  state : m.state.SoundsLike k.state
  l : k.l = m.l
  r : k.r = m.r

/-- An active voice adds the same to both sums, an inactive one nothing (46_host_render.md R378). -/
theorem Mix.SoundsLike.addVoice {m k : Mix} (h : m.SoundsLike k) (nz : F32) (v : VoiceIdx) :
    (m.addVoice nz v).SoundsLike (k.addVoice nz v) := by
  have hv := h.state.voice v
  by_cases hactive : (m.state.voice v).env.isActive = true
  · have hsame : k.state.voice v = m.state.voice v := hv.eq_of_isActive hactive
    rw [addVoice_of_active hactive, addVoice_of_active (m := k) (hsame ▸ hactive), hsame, h.l, h.r]
    exact ⟨(h.state.setVoice v .refl).raisePeriodLow _, rfl, rfl⟩
  · rw [addVoice_of_inactive hactive, addVoice_of_inactive (m := k) (hv.isActive ▸ hactive)]
    exact h

theorem State.SoundsLike.mixVoices {s t : State} (h : s.SoundsLike t) (nz : F32) :
    (s.mixVoices nz).SoundsLike (t.mixVoices nz) :=
  List.foldl_rel (r := Mix.SoundsLike) ⟨h, rfl, rfl⟩ fun v _ _ _ hm => hm.addVoice nz v

theorem Mix.SoundsLike.store {m k : Mix} (h : m.SoundsLike k) (i : Nat) (level : F32) :
    (m.store i level).SoundsLike (k.store i level) := by
  rw [Mix.store, Mix.store, h.l, h.r, h.state.memory]
  exact h.state.setMemory _

namespace State.SoundsLike

variable {s t : State}

theorem renderSample (h : s.SoundsLike t) (i : Nat) : (s.renderSample i).SoundsLike (t.renderSample i) := by
  have hnoise : t.noiseMix = s.noiseMix := by cases h; rfl
  have hlevel : t.outputLevel = s.outputLevel := by cases h; rfl
  have hnext := h.lfoTick.noiseNext
  rw [renderSample_eq_store, renderSample_eq_store, hnext.seed, hnoise, hlevel]
  exact (hnext.mixVoices _).store i _

theorem renderSamples (h : s.SoundsLike t) (n : Nat) : (s.renderSamples n).SoundsLike (t.renderSamples n) := by
  induction n with
  | zero => exact h
  | succ n ih => exact ih.renderSample n

theorem safetyClamp (h : s.SoundsLike t) (ch : Channel) : (s.safetyClamp ch).SoundsLike (t.safetyClamp ch) := by
  rw [State.safetyClamp, State.safetyClamp, h.memory]
  exact h.setMemory _

theorem reclaim (h : s.SoundsLike t) : s.reclaim.SoundsLike t.reclaim :=
  h.mapVoices fun _ _ _ hx => hx.reclaimVoice

theorem render (h : s.SoundsLike t) (n : Nat) : (s.render n).SoundsLike (t.render n) :=
  ((((h.setMemory Memory.empty).refreshActive.renderSamples n).reclaim).safetyClamp .left).safetyClamp .right

/-! ### Host calls -/

theorem refuse (h : s.SoundsLike t) (c : Command) : (s.refuse c).SoundsLike (t.refuse c) :=
  h.update (f := fun s => s.refuse c) (fun _ _ => rfl) fun _ _ => rfl

theorem hostAlloc (h : s.SoundsLike t) (sr : F32) (bs : Int) : (s.hostAlloc sr bs).SoundsLike (t.hostAlloc sr bs) :=
  h.update (f := fun s => s.hostAlloc sr bs) (fun _ _ => rfl) fun _ _ => rfl

/-- An accepted SETPARAM derives after the first ALLOC (46_host_render.md R389, R390). -/
theorem setParamDerived (h : s.SoundsLike t) (i : Fin 20) (x : F32) :
    (if (s.setParam i x).hasBeenAllocated then (s.setParam i x).derive else s.setParam i x).SoundsLike
      (if (t.setParam i x).hasBeenAllocated then (t.setParam i x).derive else t.setParam i x) := by
  have hwritten : (s.setParam i x).SoundsLike (t.setParam i x) :=
    h.update (f := fun s => s.setParam i x) (fun _ _ => rfl) fun _ _ => rfl
  rw [hasBeenAllocated_congr hwritten.engine]
  split
  · exact hwritten.update (f := State.derive) (fun _ _ => rfl) fun _ _ => rfl
  · exact hwritten

end State.SoundsLike

/-- R431: RESET leaves blocks of the same settings and words sounding alike, whatever came before. -/
theorem soundsLike_hostReset {s t : State} (h : SameSettings s t) (hmemory : s.memory = t.memory) :
    s.hostReset.SoundsLike t.hostReset := by
  have hunheard : t.hostReset = s.hostReset.withUnheard t.hostReset := by
    simp only [State.hostReset, State.withUnheard, State.setEngine, State.setLfo, State.setSeed, State.mapVoices,
      h.params, h.derived, h.sampleRate, h.blockSize, h.allocated, h.numVoices, hmemory]
  rw [hunheard]
  refine .intro t.hostReset fun v => ?_
  have hvoice : ∀ u : State, u.hostReset.voice v = (u.voice v).voiceReset := fun u => State.voice_mapVoices u _ v
  rw [hvoice, hvoice]
  exact .voiceReset _ _

/-! ## Commands -/

/-- Next states that sound alike, or the same stop. -/
inductive SoundAlike : Host.Outcome State Fault Refusal → Host.Outcome State Fault Refusal → Prop
  | next {s t : State} (h : s.SoundsLike t) : SoundAlike (.next s) (.next t)
  | fault (f : Fault) : SoundAlike (.fault f) (.fault f)
  | refused (r : Refusal) : SoundAlike (.refused r) (.refused r)

section Commands

variable {s t : State}

theorem State.SoundsLike.noteOn (h : s.SoundsLike t) (note velocity : Nat) :
    SoundAlike (s.noteOn note velocity) (t.noteOn note velocity) := by
  have hvelocity : t.usedVelocity velocity = s.usedVelocity velocity := by cases h; rfl
  have hperiod : t.calcPeriod s.noteOnVoice note = s.calcPeriod s.noteOnVoice note := by cases h; rfl
  have hstarted : t.startedVoice = s.startedVoice := by cases h; rfl
  rw [State.noteOn, State.noteOn, h.noteOnVoice, hvelocity]
  cases hp : s.calcPeriod s.noteOnVoice note with
  | none =>
    rw [startVoice_of_none hp, startVoice_of_none (hperiod.trans hp)]
    exact .fault _
  | some p =>
    rw [startVoice_of_some hp, startVoice_of_some (hperiod.trans hp), hstarted, (h.voice _).startedVoice]
    exact .next (h.setVoice _ .refl)

theorem RowRun.soundAlike {run : State → Host.Outcome State Fault Refusal} (hrun : RowRun run) (h : s.SoundsLike t) :
    SoundAlike (run s) (run t) := by
  cases hrun with
  | noEffect => exact .next h
  | noteOff note => exact .next (h.noteOff note)
  | noteOn note velocity => exact h.noteOn note velocity
  | controlChange controller value => exact .next (h.controlChange controller value)
  | setPitchBend x => exact .next (h.setPitchBend x)

/-- The checks read the operands and the engine registers, which are equal; an accepted command keeps the relation. -/
theorem State.SoundsLike.command (h : s.SoundsLike t) (c : Command) : SoundAlike (exec c.toInstr s) (exec c.toInstr t) := by
  cases c with
  | alloc sr bs =>
    change SoundAlike (execHostAlloc sr bs s) (execHostAlloc sr bs t)
    unfold execHostAlloc
    split
    · exact .next (h.refuse _)
    · exact .next (h.hostAlloc sr bs)
  | dealloc =>
    change SoundAlike (execHostDealloc s) (execHostDealloc t)
    rw [execHostDealloc, execHostDealloc, h.engine]
    exact .next (h.setEngine _)
  | reset =>
    change SoundAlike (execHostReset s) (execHostReset t)
    rw [execHostReset, execHostReset, h.engine]
    split
    · exact .next (soundsLike_hostReset h.sameSettings h.memory.symm)
    · exact .next (h.refuse _)
  | render n =>
    change SoundAlike (execHostRender n s) (execHostRender n t)
    rw [execHostRender, execHostRender, h.engine]
    split
    · exact .next (h.render n)
    · exact .next (h.refuse _)
  | setParam id x =>
    change SoundAlike (execHostSetParam id x s) (execHostSetParam id x t)
    unfold execHostSetParam
    split
    · exact .next (h.refuse _)
    · split
      · exact .next (h.refuse _)
      · exact .next (h.setParamDerived _ x)
  | midi bytes =>
    obtain ⟨run, hrun, hmidi⟩ := exists_rowRun_hostMidi bytes
    change SoundAlike (execHostMidi bytes s) (execHostMidi bytes t)
    rw [hmidi, midiCommand, midiCommand, h.engine]
    split
    · exact hrun.soundAlike h
    · exact .next (h.refuse _)

theorem State.SoundsLike.runCommands (cs : List Command) (h : s.SoundsLike t) :
    SoundAlike (runCommands cs s) (runCommands cs t) := by
  induction cs generalizing s t with
  | nil => exact .next h
  | cons c cs ih =>
    have hc := h.command c
    unfold Safety.runCommands
    generalize exec c.toInstr s = o, exec c.toInstr t = p at hc
    cases hc with
    | next h => exact ih h
    | fault f => exact .fault f
    | refused r => exact .refused r

/-- RESET makes two blocks of the same settings and words sound alike, so the commands after it keep them so. -/
theorem soundAlike_runCommands_reset (h : SameSettings s t) (halloc : s.engine.allocated = true) (hmemory : s.memory = t.memory)
    (cs : List Command) : SoundAlike (runCommands (.reset :: cs) s) (runCommands (.reset :: cs) t) := by
  have hs : exec Command.reset.toInstr s = .next s.hostReset := if_pos halloc
  have ht : exec Command.reset.toInstr t = .next t.hostReset := if_pos (h.allocated.trans halloc)
  rw [runCommands, runCommands, hs, ht]
  exact (soundsLike_hostReset h hmemory).runCommands cs

end Commands

end Sys2Proof.Machine

/-! ## The obligation -/

namespace Sys2Proof

open Sys2Proof.Machine Sys2Proof.Safety

/-- Settles O60: after RESET the two blocks sound alike, and so they do after every command, or stop the same way. -/
theorem runsAfterResetGiveTheSameWords : Obligations.RunsAfterResetGiveTheSameWords := by
  intro s t cs hsettings halloc hmemory
  have halike := soundAlike_runCommands_reset hsettings halloc hmemory cs
  generalize runCommands (.reset :: cs) s = o, runCommands (.reset :: cs) t = p at halike
  cases halike with
  | next h => exact h.memory.symm
  | fault f => rfl
  | refused r => rfl

end Sys2Proof
end
